-- ==== Sys2Proof/Word.lean ====
section
/-!
DEFINITION. The bit patterns of the machine and the two ways of reading them (00_scope.md R10, R11).

A pattern of width `w` is `BitVec w`. `uval p` of the spec is `p.toNat`, `sval_w(p)` is `p.toInt`, `zext_N(p)` is
`p.setWidth N`, and bit `v<i>` of the spec, numbered from the most significant end, is `v.getMsbD i`.
-/

namespace Sys2Proof

/-- A Word: a pattern of exactly 20 bits (00_scope.md, glossary; 20_memory.md R46: the one unit of memory). -/
abbrev Word := BitVec 20

/-- A 13-bit pattern: PC, MAR and the index registers (10_state.md R20, R21, R28). -/
abbrev Addr := BitVec 13

end Sys2Proof
end

