-- ==== Sys2Proof/Config.lean ====
section
/-!
DEFINITION. The named parameters of the hardware, each at its default (00_scope.md section 3; 92_eei_decisions.md).

"A model that fixes every parameter at its default is the hardware this spec describes." Every meaning that depends on
one of them takes it as an argument, so that the other values can be spoken of too; the machine passes these.
-/

namespace Sys2Proof

/-- `IMM_EXT`: how the 8-bit immediate is widened to 20 bits (30_encoding.md R60). -/
inductive ImmExt where
  | zero
  | sign
  deriving DecidableEq, Repr

/-- `SMR_ORDER`: which operand SMR subtracts from which (43_arithmetic.md R108). -/
inductive SmrOrder where
  | memMinusReg
  | regMinusMem
  deriving DecidableEq, Repr

/-- The 24 mnemonics, in the source's order (30_encoding.md R65). -/
inductive Mnemonic where
  | HLT | LDR | STR | LDA | LDX | STX | AMR | SMR | AIR | SIR | JMP | JZ
  | JNE | JGE | JCC | SOB | RFS | JSR | SRC | RRC | TRR | AND | ORR | NOT
  deriving DecidableEq, Repr

/-- `REG_RESET`: the construction value of every register (10_state.md R32; 92_eei_decisions.md D1). -/
structure RegReset where
  r0 : Word
  r1 : Word
  r2 : Word
  r3 : Word
  x1 : Addr
  x2 : Addr
  x3 : Addr
  pc : Addr
  ir : Word
  msr : Word
  mfr : BitVec 4
  mar : Addr
  mbr : Word
  deriving DecidableEq, Repr

/-- `OPCODE_MAP` at its default: the table of 30_encoding.md R66 (92_eei_decisions.md D14).
PRESUMED by the spec itself from the teaching instruction set; log entry 4. -/
def Config.opcodeMap : Mnemonic → BitVec 6
  | .HLT => 0
  | .LDR => 1
  | .STR => 2
  | .LDA => 3
  | .AMR => 4
  | .SMR => 5
  | .AIR => 6
  | .SIR => 7
  | .JZ => 8
  | .JNE => 9
  | .JCC => 10
  | .JMP => 11
  | .JSR => 12
  | .RFS => 13
  | .SOB => 14
  | .JGE => 15
  | .TRR => 18
  | .AND => 19
  | .ORR => 20
  | .NOT => 21
  | .SRC => 25
  | .RRC => 26
  | .LDX => 33
  | .STX => 34

/-- `LINK_REG` (44_control_transfer.md R116, R117; 92_eei_decisions.md D32; log entry 8). -/
def Config.linkReg : Fin 4 := 3

/-- `RFS_WRITES_R0` (44_control_transfer.md R117; 92_eei_decisions.md D33; log entry 8). -/
def Config.rfsWritesR0 : Bool := true

/-- `IMM_EXT` (30_encoding.md R60; 92_eei_decisions.md D16; log entry 6). -/
def Config.immExt : ImmExt := .zero

/-- `SMR_ORDER` (43_arithmetic.md R108; 92_eei_decisions.md D31; log entry 7). -/
def Config.smrOrder : SmrOrder := .memMinusReg

/-- `REG_RESET`: all zero (10_state.md R32; 92_eei_decisions.md D1; log entry 9). -/
def Config.regReset : RegReset where
  r0 := 0
  r1 := 0
  r2 := 0
  r3 := 0
  x1 := 0
  x2 := 0
  x3 := 0
  pc := 0
  ir := 0
  msr := 0
  mfr := 0
  mar := 0
  mbr := 0

end Sys2Proof
end

