-- ==== Sys2Proof/Syntax.lean ====
section
/-!
DEFINITION. The instructions: one constructor per row of the opcode table (30_encoding.md R65, R66), over the fields of
the one instruction format (R56).
-/

namespace Sys2Proof

/-- The five operand fields of the one 20-bit format (30_encoding.md R56). Which field carries which operand is R61 and
R62; the readings below name them. Fields an instruction ignores are kept: any value is legal there (R63), and `xfi`
and `ibit` select the decode mode of every instruction but AIR and SIR (R59). -/
structure Fields where
  /-- RFI: a general register number, or JCC's flag index. -/
  rfi : Fin 4
  /-- XFI: an index field (0 names no index register), the second general register, or the two shift bits. -/
  xfi : Fin 4
  /-- The indirect bit I. -/
  ibit : Bool
  /-- The trace bit T, read by no rule (R64). -/
  tbit : Bool
  /-- The address, immediate or count field. -/
  addr : BitVec 8
  deriving DecidableEq, Repr

/-- r, rx: the register field (R61). -/
abbrev Fields.r (f : Fields) : Fin 4 := f.rfi

/-- ry: the second general register of TRR, AND and ORR (R61). -/
abbrev Fields.ry (f : Fields) : Fin 4 := f.xfi

/-- cc: the flag index of JCC (R61). -/
abbrev Fields.cc (f : Fields) : Fin 4 := f.rfi

/-- The instructions of the opcode table. -/
inductive Instr where
  /-- HLT: halt (R101). -/
  | hlt (f : Fields)
  /-- LDR: load register from memory (R102). -/
  | ldr (f : Fields)
  /-- STR: store register to memory (R103). -/
  | str (f : Fields)
  /-- LDA: load register with address (R104). -/
  | lda (f : Fields)
  /-- LDX: load index register from memory (R105). -/
  | ldx (f : Fields)
  /-- STX: store index register to memory (R106). -/
  | stx (f : Fields)
  /-- AMR: add memory to register (R107). -/
  | amr (f : Fields)
  /-- SMR: subtract memory and register (R108). -/
  | smr (f : Fields)
  /-- AIR: add immediate to register (R109). -/
  | air (f : Fields)
  /-- SIR: subtract immediate from register (R110). -/
  | sir (f : Fields)
  /-- JZ: jump if zero (R112). -/
  | jz (f : Fields)
  /-- JNE: jump if not equal to zero (R113). -/
  | jne (f : Fields)
  /-- JCC: jump if condition code (R114). -/
  | jcc (f : Fields)
  /-- JMP: unconditional jump (R115). -/
  | jmp (f : Fields)
  /-- JSR: jump and save return address (R116). -/
  | jsr (f : Fields)
  /-- RFS: return from subroutine with return code (R117). -/
  | rfs (f : Fields)
  /-- SOB: subtract one and branch (R118). -/
  | sob (f : Fields)
  /-- JGE: jump if greater than or equal to zero (R119). -/
  | jge (f : Fields)
  /-- TRR: test the equality of register and register (R122). -/
  | trr (f : Fields)
  /-- AND: logical AND of register and register (R123). -/
  | and (f : Fields)
  /-- ORR: logical OR of register and register (R124). -/
  | orr (f : Fields)
  /-- NOT: logical NOT of register (R125). -/
  | not (f : Fields)
  /-- SRC: shift register by count (R120). -/
  | src (f : Fields)
  /-- RRC: rotate register by count (R121). -/
  | rrc (f : Fields)
  deriving DecidableEq, Repr

/-- The operand fields of an instruction. -/
def Instr.fields : Instr → Fields
  | .hlt f | .ldr f | .str f | .lda f | .ldx f | .stx f | .amr f | .smr f | .air f | .sir f | .jz f | .jne f
  | .jcc f | .jmp f | .jsr f | .rfs f | .sob f | .jge f | .trr f | .and f | .orr f | .not f | .src f | .rrc f => f

/-- The mnemonic of an instruction. -/
def Instr.mnemonic : Instr → Mnemonic
  | .hlt _ => .HLT
  | .ldr _ => .LDR
  | .str _ => .STR
  | .lda _ => .LDA
  | .ldx _ => .LDX
  | .stx _ => .STX
  | .amr _ => .AMR
  | .smr _ => .SMR
  | .air _ => .AIR
  | .sir _ => .SIR
  | .jz _ => .JZ
  | .jne _ => .JNE
  | .jcc _ => .JCC
  | .jmp _ => .JMP
  | .jsr _ => .JSR
  | .rfs _ => .RFS
  | .sob _ => .SOB
  | .jge _ => .JGE
  | .trr _ => .TRR
  | .and _ => .AND
  | .orr _ => .ORR
  | .not _ => .NOT
  | .src _ => .SRC
  | .rrc _ => .RRC

/-- The instruction with a given mnemonic and given fields. -/
def Instr.make : Mnemonic → Fields → Instr
  | .HLT => .hlt
  | .LDR => .ldr
  | .STR => .str
  | .LDA => .lda
  | .LDX => .ldx
  | .STX => .stx
  | .AMR => .amr
  | .SMR => .smr
  | .AIR => .air
  | .SIR => .sir
  | .JZ => .jz
  | .JNE => .jne
  | .JCC => .jcc
  | .JMP => .jmp
  | .JSR => .jsr
  | .RFS => .rfs
  | .SOB => .sob
  | .JGE => .jge
  | .TRR => .trr
  | .AND => .and
  | .ORR => .orr
  | .NOT => .not
  | .SRC => .src
  | .RRC => .rrc

end Sys2Proof
end

