-- ==== Sys2Proof/WellFormed.lean ====
section
/-!
DEFINITION. When operands given as numbers fit the fields of the instruction format (30_encoding.md R56), and so when an
instruction is well formed. No encoding is illegal because of the value of a field (R63), so a term of `Instr`, whose
fields have their exact widths, is always well formed; operands given as bare numbers need not be (90_conflicts.md C4:
no AIR word holds the immediate 500).
-/

namespace Sys2Proof

/-- Operands as bare numbers, before they are known to fit. -/
structure RawOperands where
  rfi : Nat
  xfi : Nat
  ibit : Nat
  tbit : Nat
  addr : Nat
  deriving DecidableEq, Repr

/-- Why operands do not fit the format: one reason per field of R56. -/
inductive OperandError where
  /-- The register field holds 0 to 3. -/
  | registerField
  /-- The index field holds 0 to 3. -/
  | indexField
  /-- The indirect bit is 0 or 1. -/
  | indirectBit
  /-- The trace bit is 0 or 1. -/
  | traceBit
  /-- The address, immediate or count field holds 0 to 255. -/
  | addressField
  deriving DecidableEq, Repr

/-- The first field that a number does not fit, if any (R56's widths). -/
def RawOperands.error (o : RawOperands) : Option OperandError :=
  if 4 ≤ o.rfi then some .registerField
  else if 4 ≤ o.xfi then some .indexField
  else if 2 ≤ o.ibit then some .indirectBit
  else if 2 ≤ o.tbit then some .traceBit
  else if 256 ≤ o.addr then some .addressField
  else none

/-- Every operand fits its field. -/
abbrev RawOperands.WellFormed (o : RawOperands) : Prop := o.error = none

/-- The fields that well-formed operands stand for. -/
def RawOperands.toFields (o : RawOperands) : Except OperandError Fields :=
  match o.error with
  | some e => .error e
  | none =>
    .ok { rfi := Fin.ofNat 4 o.rfi, xfi := Fin.ofNat 4 o.xfi, ibit := o.ibit == 1, tbit := o.tbit == 1,
          addr := BitVec.ofNat 8 o.addr }

/-- The fields read back as numbers. -/
def Fields.raw (f : Fields) : RawOperands :=
  { rfi := f.rfi.val, xfi := f.xfi.val, ibit := f.ibit.toNat, tbit := f.tbit.toNat, addr := f.addr.toNat }

/-- An instruction is well formed when its operands fit the format. -/
abbrev Instr.WellFormed (i : Instr) : Prop := i.fields.raw.WellFormed

end Sys2Proof
end

