-- ==== Sys2Proof/Decode.lean ====
section
/-!
DEFINITION. Reading an instruction from its 20-bit word and writing it back (30_encoding.md R55 to R57, R66, R67).
-/

namespace Sys2Proof

/-- The opcode field `w<0..5>` = w[19:14] (R57). -/
def opcodeField (w : Word) : BitVec 6 := w.extractLsb' 14 6

/-- The operand fields of a word, as decode microstate 0 extracts them (R57). -/
def fieldsOf (w : Word) : Fields where
  rfi := (w.extractLsb' 12 2).toFin
  xfi := (w.extractLsb' 10 2).toFin
  ibit := w.getLsbD 9
  tbit := w.getLsbD 8
  addr := w.extractLsb' 0 8

/-- The word of an opcode and operand fields (R57, the converse direction). -/
def packWord (op : BitVec 6) (f : Fields) : Word :=
  op ++ BitVec.ofFin (w := 2) f.rfi ++ BitVec.ofFin (w := 2) f.xfi ++ BitVec.ofBool f.ibit ++ BitVec.ofBool f.tbit ++ f.addr

/-- The 24 mnemonics as a list (R65). -/
def allMnemonics : List Mnemonic :=
  [.HLT, .LDR, .STR, .LDA, .LDX, .STX, .AMR, .SMR, .AIR, .SIR, .JMP, .JZ,
   .JNE, .JGE, .JCC, .SOB, .RFS, .JSR, .SRC, .RRC, .TRR, .AND, .ORR, .NOT]

/-- The mnemonic that a map gives an opcode value, if any: the opcode alone selects the instruction (R66). -/
def mnemonicOf (map : Mnemonic → BitVec 6) (op : BitVec 6) : Option Mnemonic :=
  allMnemonics.find? fun m => map m == op

/-- Why a word is no instruction. -/
inductive DecodeError where
  /-- The opcode is not one of the 24 (R67). -/
  | unhandledOpcode (op : BitVec 6)
  deriving DecidableEq, Repr

/-- Decoding under any opcode map (`OPCODE_MAP` is a parameter, 92_eei_decisions.md D14). -/
def decodeWith (map : Mnemonic → BitVec 6) (w : Word) : Except DecodeError Instr :=
  match mnemonicOf map (opcodeField w) with
  | some m => .ok (Instr.make m (fieldsOf w))
  | none => .error (.unhandledOpcode (opcodeField w))

/-- Decoding one word: every word is an instruction or an unhandled opcode (R66, R67). -/
def decode (w : Word) : Except DecodeError Instr := decodeWith Config.opcodeMap w

/-- Encoding under any opcode map. -/
def encodeWith (map : Mnemonic → BitVec 6) (i : Instr) : Word := packWord (map i.mnemonic) i.fields

/-- The word of an instruction (R57, R66). -/
def encode (i : Instr) : Word := encodeWith Config.opcodeMap i

/-- The instruction the decoder reads from the bits `w` of an opcode-table row. Every instruction is one 20-bit word
(R55), numbered in the table as here, so `nbits` says nothing more; a number that no 20-bit word is decodes to none. -/
def decodeTableWord (_nbits w : Nat) : Option Instr :=
  if w < 2 ^ 20 then (decode (BitVec.ofNat 20 w)).toOption else none

end Sys2Proof
end

