-- ==== Sys2Proof/Machine/State.lean ====
section
/-!
DEFINITION. The state of the CORE as plain data (10_state.md), what a fault records (60_exceptions.md R126, R129), how a
step can stop, and the state after construction (10_state.md R32).
-/

namespace Sys2Proof.Machine

open Sys2Proof

/-- The four general registers, IDs 0 to 3 (R19). -/
structure GeneralRegs where
  r0 : Word
  r1 : Word
  r2 : Word
  r3 : Word
  deriving DecidableEq, Repr

/-- The three index registers, IDs 1 to 3 (R20). -/
structure IndexRegs where
  x1 : Addr
  x2 : Addr
  x3 : Addr
  deriving DecidableEq, Repr

/-- Main memory (20_memory.md R33): the cells whose word differs from 0, which is what every cell holds at construction
(10_state.md R32). The canonical form is `Memory.wf`. -/
structure Memory where
  cells : List (Nat × Word)
  deriving DecidableEq, Repr

/-- The top-level states of the control unit (40_cycle.md R75). -/
inductive TopState where
  | fetch
  | decode
  | execute
  deriving DecidableEq, Repr

/-- The mode of effective-address computation (30_encoding.md R58; NONE for AIR and SIR, 40_cycle.md R78). -/
inductive EaMode where
  | none
  | direct
  | registerIndirect
  | indexed
  | indexedOffset
  deriving DecidableEq, Repr

/-- The decoded-field latch `dec` (R29): the opcode, the operand fields and the mode. -/
structure Decoded where
  opcode : BitVec 6
  fields : Fields
  mode : EaMode
  deriving DecidableEq, Repr

/-- The access-sequencer states of the memory unit (20_memory.md R39). -/
inductive MemState where
  | none
  | preFetch
  | fetch
  | preStore
  | store
  deriving DecidableEq, Repr

/-- The states of the ALU (41_alu.md R87). -/
inductive AluState where
  | none
  | startComputation
  | finished
  deriving DecidableEq, Repr

/-- The ALU's control codes (41_alu.md R87). -/
inductive AluControl where
  | add
  | subtract
  | and
  | multiply
  | divide
  deriving DecidableEq, Repr

/-- Which check of the ALU's protocol failed (60_exceptions.md R126, code 6). -/
inductive AluCheck where
  /-- A signal with a missing operand or control code (41_alu.md R90). -/
  | missingInput
  /-- A read of a result that is not FINISHED (41_alu.md R91). -/
  | resultNotFinished
  deriving DecidableEq, Repr

/-- The fault kinds with their info (60_exceptions.md R126). -/
inductive FaultKind where
  /-- ConstructionError(w, n), code 1. -/
  | construction (width : Nat) (value : Int)
  /-- AddressOutOfRangeError(address), code 2. -/
  | addressOutOfRange (address : Nat)
  /-- DivisionByZeroError, code 3. -/
  | divisionByZero
  /-- UnhandledOpcodeError(opcode), code 4. -/
  | unhandledOpcode (opcode : BitVec 6)
  /-- InvalidRegisterError(id), code 5. -/
  | invalidRegister (id : Nat)
  /-- ALUProtocolError(which check), code 6. -/
  | aluProtocol (check : AluCheck)
  deriving DecidableEq, Repr

/-- The phase of the tick a fault was raised in (R129). -/
inductive TickPhase where
  | controlUnit
  | alu
  | memory
  deriving DecidableEq, Repr

/-- The fault record (R129). -/
structure FaultRecord where
  kind : FaultKind
  pc : Addr
  ir : Word
  dec : Option Decoded
  top : TopState
  micro : Nat
  phase : TickPhase
  deriving DecidableEq, Repr

/-- The state of the CORE: the registers of 10_state.md sections 2 to 7, the memory, and the hidden state of R29. -/
structure State where
  /-- R0 to R3 (R19). -/
  regs : GeneralRegs
  /-- X1 to X3 (R20). -/
  index : IndexRegs
  /-- PC (R21). -/
  pc : Addr
  /-- IR (R22). -/
  ir : Word
  /-- MSR, "unused by logic but present" (R23). -/
  msr : Word
  /-- MFR, "unused by logic but present" (R24). -/
  mfr : BitVec 4
  /-- CC: OVF, UNF, DVZ, EQ from the most significant bit (R25, R27). -/
  cc : BitVec 4
  /-- MAR (R28). -/
  mar : Addr
  /-- MBR (R28). -/
  mbr : Word
  /-- Main memory (20_memory.md R33). -/
  mem : Memory
  /-- `top` (R29). -/
  top : TopState
  /-- `µ` (R29). -/
  micro : Nat
  /-- `dec` (R29). -/
  dec : Option Decoded
  /-- `ea`, an unbounded natural (R29, R30). -/
  ea : Option Nat
  /-- `nextPC` (R29). -/
  nextPC : Option Addr
  /-- `halted` (R29, 60_exceptions.md R134). -/
  halted : Bool
  /-- `fault` (R29, 60_exceptions.md R129). -/
  fault : Option FaultRecord
  /-- `mstate` (R29). -/
  mstate : MemState
  /-- `astate` (R29). -/
  astate : AluState
  /-- `op1` (R29). -/
  op1 : Option Word
  /-- `op2` (R29). -/
  op2 : Option Word
  /-- `ctrl` (R29). -/
  ctrl : Option AluControl
  /-- `result` (R29). -/
  result : Option Word
  deriving DecidableEq, Repr

/-- How a step can stop without a next state. The machine's own faults are not here: taking one is a next state whose
`fault` field holds the record of R129 (R129, R133; log entry 2). -/
inductive Fault where
  /-- The control unit stands at a microstep that no rule of the spec describes (for example FETCH with µ = 7, or EXECUTE
  with no decoded fields). Raised by the tick and by the meanings, in such states only. Safe: the spec gives the machine
  no behaviour there, and no run reaches such a state (log entry 3). -/
  | noMicrostep (top : TopState) (micro : Nat)
  deriving DecidableEq, Repr

/-- What the model has no meaning for. -/
inductive Refusal where
  /-- An instruction whose meaning is not written. Raised by `exec` only, by mnemonic; safe. No arm of this model uses it. -/
  | notModelled (mnemonic : String)
  deriving DecidableEq, Repr

/-- Construction of the Computer with given register values (10_state.md R32; 70_reset_and_hazards.md R145). -/
def State.constructed (v : RegReset) : State where
  regs := { r0 := v.r0, r1 := v.r1, r2 := v.r2, r3 := v.r3 }
  index := { x1 := v.x1, x2 := v.x2, x3 := v.x3 }
  pc := v.pc
  ir := v.ir
  msr := v.msr
  mfr := v.mfr
  cc := 0
  mar := v.mar
  mbr := v.mbr
  mem := { cells := [] }
  top := .fetch
  micro := 0
  dec := none
  ea := none
  nextPC := none
  halted := false
  fault := none
  mstate := .none
  astate := .none
  op1 := none
  op2 := none
  ctrl := none
  result := none

/-- The machine right after construction, its only reset (10_state.md R32; 70_reset_and_hazards.md R145). -/
def State.reset : State := State.constructed Config.regReset

end Sys2Proof.Machine
end

