-- ==== Sys2Proof/Machine/Flags.lean ====
section
/-!
DEFINITION. The condition code (10_state.md R25 to R27): its four bits, read and written by position.
-/

namespace Sys2Proof.Machine

open Sys2Proof

/-- CC<i>, positions counted from the most significant bit (R25): 0 OVF, 1 UNF, 2 DVZ, 3 EQ. -/
def ccBit (cc : BitVec 4) (i : Fin 4) : Bool := cc.getMsbD i.val

/-- CC with the bit CC<i> made `b` and the other bits kept. -/
def ccSet (cc : BitVec 4) (i : Fin 4) (b : Bool) : BitVec 4 :=
  if b then cc ||| (8#4 >>> i.val) else cc &&& ~~~(8#4 >>> i.val)

/-- The position of OVF (R25). -/
def ccOVF : Fin 4 := 0

/-- The position of UNF (R25). -/
def ccUNF : Fin 4 := 1

/-- The position of DVZ (R25). -/
def ccDVZ : Fin 4 := 2

/-- The position of EQ (R25). -/
def ccEQ : Fin 4 := 3

/-- CC with OVF made `b` (41_alu.md R94, R95). -/
def ccWithOverflow (cc : BitVec 4) (b : Bool) : BitVec 4 := ccSet cc ccOVF b

/-- CC with EQ made `b` (45_shift_logical.md R122). -/
def ccWithEqual (cc : BitVec 4) (b : Bool) : BitVec 4 := ccSet cc ccEQ b

/-- Signed overflow of a sum with this result (41_alu.md R94). -/
def addOverflow {w : Nat} (a b result : BitVec w) : Bool := a.msb == b.msb && result.msb != a.msb

/-- Signed overflow of a difference with this result (41_alu.md R95). -/
def subOverflow {w : Nat} (a b result : BitVec w) : Bool := a.msb != b.msb && result.msb != a.msb

end Sys2Proof.Machine
end

