-- ==== Sys2Proof/Machine/BitUnit.lean ====
section
/-!
DEFINITION. The BitUnit value type (10_state.md R12 to R18): construction with its range check, reading, strings, slices,
shift and rotate. A BitUnit of size `w` is a pattern `BitVec w`; sizes are 1 to 32 (R12).
-/

namespace Sys2Proof.Machine

open Sys2Proof

/-! ## Widths (00_scope.md section 4) -/

/-- `trunc_w(n)`: the low `w` bits of an integer in two's complement (00_scope.md section 4). -/
abbrev trunc (w : Nat) (n : Int) : BitVec w := BitVec.ofInt w n

/-- `zext_N(p)`: widened by zeros on the left (00_scope.md section 4). -/
abbrev zext {w : Nat} (n : Nat) (p : BitVec w) : BitVec n := p.setWidth n

/-- `sext_N(p)`: widened by copies of the most significant bit (00_scope.md section 4). -/
abbrev sext {w : Nat} (n : Nat) (p : BitVec w) : BitVec n := p.signExtend n

/-! ## The value type -/

/-- The lowest integer that `construct_w` accepts: −(2^(w−1) − 1) (R13, "must be preserved bit-for-bit"). -/
def lowestLegal (w : Nat) : Int := -(2 ^ (w - 1) - 1)

/-- The highest integer that `construct_w` accepts: 2^w − 1 (R13). -/
def highestLegal (w : Nat) : Int := 2 ^ w - 1

/-- `construct_w(n)` (R13): the pattern of a legal integer, or ConstructionError(w, n). -/
def construct (w : Nat) (n : Int) : Except FaultKind (BitVec w) :=
  if lowestLegal w ≤ n ∧ n ≤ highestLegal w then .ok (trunc w n) else .error (.construction w n)

/-- The ways a BitUnit operation raises ConstructionError. The spec gives the info of the first only (60_exceptions.md
R126); what the other two carry is the model's own (DESIGN CHOICE, log entry 17). No instruction reaches them. -/
inductive BitUnitError where
  /-- The size is outside 1..32, or the integer outside the legal range (R12, R13). -/
  | construction (width : Nat) (value : Int)
  /-- The string is empty, too long, or holds a character other than 0 and 1 (R15, 92_eei_decisions.md D3). -/
  | badString (width : Nat) (chars : List Char)
  /-- A slice index lies outside the unit, or the start after the end (R16, 92_eei_decisions.md D3). -/
  | badSlice (width first last : Nat)
  deriving DecidableEq, Repr

/-- `new(size, value)` (R12, R13): the size check, then the range check. -/
def newBitUnit (size : Nat) (value : Int) : Except BitUnitError (BitVec size) :=
  if 1 ≤ size ∧ size ≤ 32 then
    match construct size value with
    | .ok p => .ok p
    | .error _ => .error (.construction size value)
  else .error (.construction size value)

/-- The character of a bit. -/
def bitChar (b : Bool) : Char := if b then '1' else '0'

/-- `to_binary_string` (R15): the bits `p<0>` to `p<w−1>` as characters, most significant first. -/
def toBinaryString {w : Nat} (p : BitVec w) : List Char :=
  (List.range w).map fun i => bitChar (p.getMsbD i)

/-- The pattern of a bit list, most significant first, in `w` bits, starting from a fill pattern. -/
def shiftIn (w : Nat) (start : BitVec w) (s : List Char) : BitVec w :=
  s.foldl (fun acc c => (acc <<< 1) ||| (if c = '1' then 1#w else 0#w)) start

/-- `from_binary_string_w` (R15): a shorter string is sign-extended from its first character. -/
def fromBinaryString (w : Nat) (s : List Char) : Except BitUnitError (BitVec w) :=
  if 1 ≤ s.length ∧ s.length ≤ w ∧ s.all (fun c => c == '0' || c == '1') then
    .ok (shiftIn w (if s.head? = some '1' then BitVec.allOnes w else 0#w) s)
  else .error (.badString w s)

/-- `decomposeByOffset` (R16): the bits `p<a..b>`, both ends inclusive, counted from the most significant bit. -/
def decomposeByOffset {w : Nat} (p : BitVec w) (a b : Nat) : Except BitUnitError (BitVec (b - a + 1)) :=
  if a ≤ b ∧ b < w then .ok (p.extractLsb' (w - 1 - b) (b - a + 1)) else .error (.badSlice w a b)

/-- `decomposeByIndex` (R16): the bit `p<i>` as a 1-bit pattern. -/
def decomposeByIndex {w : Nat} (p : BitVec w) (i : Nat) : Except BitUnitError (BitVec 1) :=
  if i < w then .ok (BitVec.ofBool (p.getMsbD i)) else .error (.badSlice w i i)

/-- The direction of a shift or rotate (R17, R18). -/
inductive Direction where
  | left
  | right
  deriving DecidableEq, Repr

/-- The mode of a shift (R17). -/
inductive ShiftMode where
  | logical
  | arithmetic
  deriving DecidableEq, Repr

/-- `shift_w(p, n, dir, mode)` (R17). -/
def shift {w : Nat} (p : BitVec w) (n : Nat) : Direction → ShiftMode → BitVec w
  | .left, _ => p <<< n
  | .right, .logical => p >>> n
  | .right, .arithmetic => p.sshiftRight n

/-- `rotate_w(p, n, dir)` (R18). -/
def rotate {w : Nat} (p : BitVec w) (n : Nat) : Direction → BitVec w
  | .left => p.rotateLeft (n % w)
  | .right => p.rotateRight (n % w)

end Sys2Proof.Machine
end

