-- ==== Sys2Proof/Machine/Ops.lean ====
section
/-!
DEFINITION. The named operations over registers and memory: register access, the memory store, the MAR/MBR requests and
the memory phase (20_memory.md), moving the control unit, completion (40_cycle.md R84) and taking a fault
(60_exceptions.md R129). There is no return from a fault to model beside it: a fault is terminal (R133, R137).
-/

namespace Sys2Proof.Machine

open Sys2Proof

/-! ## What a microstep or a phase can answer -/

/-- The result of a microstep or of a phase of the tick. -/
inductive PhaseResult where
  /-- The actions are performed. -/
  | done (s : State)
  /-- A fault is raised and the actions are not performed (60_exceptions.md R130). -/
  | raise (k : FaultKind)
  /-- No rule of the spec describes this microstep (log entry 3). -/
  | noRule
  deriving DecidableEq, Repr

/-- Go on with a constructed pattern, or raise its ConstructionError (10_state.md R13). -/
def orRaise {α : Type} (c : Except FaultKind α) (k : α → PhaseResult) : PhaseResult :=
  match c with
  | .ok v => k v
  | .error e => .raise e

/-! ## Registers -/

/-- `R[i]` (10_state.md R19). -/
def GeneralRegs.get (g : GeneralRegs) (i : Fin 4) : Word :=
  match i with
  | 0 => g.r0
  | 1 => g.r1
  | 2 => g.r2
  | 3 => g.r3

/-- `R[i] <- v` (10_state.md R19). -/
def GeneralRegs.set (g : GeneralRegs) (i : Fin 4) (v : Word) : GeneralRegs :=
  match i with
  | 0 => { g with r0 := v }
  | 1 => { g with r1 := v }
  | 2 => { g with r2 := v }
  | 3 => { g with r3 := v }

/-- `X[i]`; the number 0 names no index register (10_state.md R20). -/
def IndexRegs.get (x : IndexRegs) (i : Fin 4) : Option Addr :=
  match i with
  | 0 => none
  | 1 => some x.x1
  | 2 => some x.x2
  | 3 => some x.x3

/-- `X[i] <- v`; the number 0 names no index register, and nothing is written (10_state.md R20). -/
def IndexRegs.set (x : IndexRegs) (i : Fin 4) (v : Addr) : IndexRegs :=
  match i with
  | 0 => x
  | 1 => { x with x1 := v }
  | 2 => { x with x2 := v }
  | 3 => { x with x3 := v }

/-- `R[i]` of a state. -/
def State.reg (s : State) (i : Fin 4) : Word := s.regs.get i

/-- A state with `R[i] <- v`. -/
def State.setReg (s : State) (i : Fin 4) (v : Word) : State := { s with regs := s.regs.set i v }

/-- A state with `X[i] <- v`. -/
def State.setIndex (s : State) (i : Fin 4) (v : Addr) : State := { s with index := s.index.set i v }

/-! ## The store -/

/-- The bank of an address (20_memory.md R33). -/
def bankOf (a : Nat) : Nat := a / 256

/-- The cell of an address within its bank (20_memory.md R33). -/
def cellOf (a : Nat) : Nat := a % 256

/-- An address names a cell when its bank is one of the 8 (20_memory.md R33, R34, R43). -/
def inRange (a : Nat) : Bool := bankOf a < 8

/-- What a cell that nothing has written holds: "memory cells are zero-initialized at construction" (10_state.md R32). -/
def unlistedWord : Word := 0

/-- The word listed for an address, or what an unlisted address holds. -/
def lookupCell (a : Nat) : List (Nat × Word) → Word
  | [] => unlistedWord
  | (b, v) :: rest => if a = b then v else lookupCell a rest

/-- `M[a]`. -/
def Memory.read (m : Memory) (a : Nat) : Word := lookupCell a m.cells

/-- The list with the word `v` at address `a`, in canonical form: writing what an unlisted address holds removes the
entry. -/
def putCell (a : Nat) (v : Word) : List (Nat × Word) → List (Nat × Word)
  | [] => if v = unlistedWord then [] else [(a, v)]
  | (b, u) :: rest =>
    if a < b then (if v = unlistedWord then (b, u) :: rest else (a, v) :: (b, u) :: rest)
    else if a = b then (if v = unlistedWord then rest else (a, v) :: rest)
    else (b, u) :: putCell a v rest

/-- `M[a] <- v`. -/
def Memory.write (m : Memory) (a : Nat) (v : Word) : Memory := { cells := putCell a v m.cells }

/-- The canonical form of a cell list above a bound: addresses strictly rising and in range, no entry equal to what an
unlisted address holds. -/
def cellsWf (low : Nat) : List (Nat × Word) → Bool
  | [] => true
  | (a, v) :: rest => decide (low ≤ a) && inRange a && decide (v ≠ unlistedWord) && cellsWf (a + 1) rest

/-- The canonical form of memory, so that equal memories are equal data. -/
def Memory.wf (m : Memory) : Bool := cellsWf 0 m.cells

/-! ## The request interface (20_memory.md R35 to R38) -/

/-- The memory unit is in the middle of an access: FETCH or STORE (R35, R36). -/
def MemState.busy : MemState → Bool
  | .fetch | .store => true
  | .none | .preFetch | .preStore => false

/-- The answer to a request (R35, R36, R37). -/
inductive Request where
  /-- The unit is busy and nothing changes; not an error (R37). -/
  | refused
  /-- The request is accepted and the state changes. -/
  | accepted (s : State)
  /-- The address fails its construction check (R35). -/
  | failed (k : FaultKind)
  deriving DecidableEq, Repr

/-- `setMAR(a)` (R35): the busy test comes before the construction check (92_eei_decisions.md D9). -/
def State.setMAR (s : State) (a : Int) : Request :=
  if s.mstate.busy then .refused
  else
    match construct 13 a with
    | .ok v => .accepted { s with mar := v, mstate := .preFetch }
    | .error e => .failed e

/-- `setMBR(p)` (R36). -/
def State.setMBR (s : State) (p : Word) : Request :=
  if s.mstate.busy then .refused else .accepted { s with mbr := p, mstate := .preStore }

/-- The control unit's answer to a request: go on when accepted, stall when refused (the microstep makes no change,
40_cycle.md R74), raise when failed. `s` is the state before the microstep. -/
def orStall (s : State) (q : Request) (k : State → PhaseResult) : PhaseResult :=
  match q with
  | .accepted s' => k s'
  | .refused => .done s
  | .failed e => .raise e

/-! ## The memory phase (20_memory.md R39 to R43) -/

/-- One cycle of the memory unit (R39): a pending read (R40) or write (R41) is performed, or faults when MAR is out of
range (R43); a finished access goes back to NONE and keeps MAR and MBR (R42). -/
def memoryPhase (s : State) : PhaseResult :=
  match s.mstate with
  | .preFetch =>
    if inRange (s.mar.toNat) then .done { s with mbr := s.mem.read (s.mar.toNat), mstate := .fetch }
    else .raise (.addressOutOfRange (s.mar.toNat))
  | .preStore =>
    if inRange (s.mar.toNat) then .done { s with mem := s.mem.write (s.mar.toNat) s.mbr, mstate := .store }
    else .raise (.addressOutOfRange (s.mar.toNat))
  | .fetch | .store => .done { s with mstate := .none }
  | .none => .done s

/-- One cycle of the I/O stub, which changes no state of the CORE (40_cycle.md R71). -/
def ioPhase (s : State) : State := s

/-! ## Moving the control unit (40_cycle.md R73) -/

/-- `next µ`. -/
def State.nextMicro (s : State) : State := { s with micro := s.micro + 1 }

/-- A change of `top`, with µ reset to 0 on entry (R75). -/
def State.enter (s : State) (t : TopState) : State := { s with top := t, micro := 0 }

/-- The microstep that reads `ea`, when decode has latched one (10_state.md R29). -/
def State.withEa (s : State) (k : Nat → PhaseResult) : PhaseResult :=
  match s.ea with
  | some ea => k ea
  | none => .noRule

/-- Taking a jump: `nextPC <- construct_13(t)`, or ConstructionError(13, t) with nothing written (44_control_transfer.md
R111). -/
def State.jumpTo (s : State) (t : Int) (k : State → PhaseResult) : PhaseResult :=
  orRaise (construct 13 t) fun p => k { s with nextPC := some p }

/-- The state after completion with PC at `p`: the latches are cleared and the control unit returns to FETCH µ0 (R84). -/
def State.finishAt (s : State) (p : Addr) : State :=
  { s with pc := p, nextPC := none, dec := none, ea := none, top := .fetch, micro := 0 }

/-- `complete` (40_cycle.md R84): PC takes `nextPC` if a jump set one, else `construct_13(uval(PC) + 1)`. -/
def State.complete (s : State) : PhaseResult :=
  match s.nextPC with
  | some p => .done (s.finishAt p)
  | none => orRaise (construct 13 (s.pc.toNat + 1)) fun p => .done (s.finishAt p)

/-! ## Stopping -/

/-- The run has ended: halted or faulted (40_cycle.md R72, R86). -/
def State.stopped (s : State) : Bool := s.halted || s.fault.isSome

/-- Taking a fault (60_exceptions.md R129): the composition root records it, from the state as it is when the fault is
raised, and nothing else changes; MSR and MFR are not written (R133). -/
def State.takeFault (s : State) (k : FaultKind) (phase : TickPhase) : State :=
  { s with
    fault := some { kind := k, pc := s.pc, ir := s.ir, dec := s.dec, top := s.top, micro := s.micro, phase := phase } }

/-- Raising Halt (60_exceptions.md R134): `halted` is set and nothing else changes. -/
def State.halt (s : State) : State := { s with halted := true }

/-- The numeric code of a fault kind (60_exceptions.md R126; 92_eei_decisions.md D34). -/
def FaultKind.code : FaultKind → Nat
  | .construction _ _ => 1
  | .addressOutOfRange _ => 2
  | .divisionByZero => 3
  | .unhandledOpcode _ => 4
  | .invalidRegister _ => 5
  | .aluProtocol _ => 6

end Sys2Proof.Machine
end

