-- ==== Sys2Proof/Machine/Alu.lean ====
section
/-!
DEFINITION. The arithmetic-logic unit (41_alu.md): its functions on patterns of any width (the machine's width is 20,
R93), its interface (R88, R89, R91) and its cycle (R90).
-/

namespace Sys2Proof.Machine

open Sys2Proof

/-! ## The functions -/

/-- ADD (R94): the wrap-around sum. -/
def aluAdd {w : Nat} (a b : BitVec w) : BitVec w := BitVec.ofNat w (a.toNat + b.toNat)

/-- SUBTRACT (R95): a − b by inversion plus one. -/
def aluSubtract {w : Nat} (a b : BitVec w) : BitVec w := BitVec.ofNat w (a.toNat + (~~~b).toNat + 1)

/-- AND (R96). -/
def aluAnd {w : Nat} (a b : BitVec w) : BitVec w := a &&& b

/-- The OR helper, which is no control code (R97). -/
def orHelper {w : Nat} (a b : BitVec w) : BitVec w := a ||| b

/-- MULTIPLY (R98): the low bits of the exact signed product. -/
def aluMultiply {w : Nat} (a b : BitVec w) : BitVec w := trunc w (a.toInt * b.toInt)

/-- DIVIDE (R99): the quotient truncated toward zero, or DivisionByZeroError. -/
def aluDivide {w : Nat} (a b : BitVec w) : Except FaultKind (BitVec w) :=
  if b.toNat = 0 then .error .divisionByZero else .ok (trunc w (Int.tdiv (a.toInt) (b.toInt)))

/-- What the ALU computes: the result, and the value written to CC.OVF by the two functions that write it (R94 to R99). -/
def aluCompute {w : Nat} (c : AluControl) (a b : BitVec w) : Except FaultKind (BitVec w × Option Bool) :=
  match c with
  | .add => .ok (aluAdd a b, some (addOverflow a b (aluAdd a b)))
  | .subtract => .ok (aluSubtract a b, some (subOverflow a b (aluSubtract a b)))
  | .and => .ok (aluAnd a b, none)
  | .multiply => .ok (aluMultiply a b, none)
  | .divide =>
    match aluDivide a b with
    | .ok q => .ok (q, none)
    | .error e => .error e

/-! ## The interface -/

/-- `setOperand1(p)` (R88). -/
def State.setOperand1 (s : State) (p : Word) : State := { s with op1 := some p }

/-- `setOperand2(p)` (R88). -/
def State.setOperand2 (s : State) (p : Word) : State := { s with op2 := some p }

/-- `setControl(c)` (R88). -/
def State.setControl (s : State) (c : AluControl) : State := { s with ctrl := some c }

/-- `signalReadyToStartComputation()` (R89). -/
def State.signalReady (s : State) : State := { s with astate := .startComputation }

/-- `getResult()` in a microstep: the result when the ALU is FINISHED, else ALUProtocolError (R91). -/
def State.withResult (s : State) (k : Word → PhaseResult) : PhaseResult :=
  match s.astate, s.result with
  | .finished, some v => k v
  | _, _ => .raise (.aluProtocol .resultNotFinished)

/-! ## The cycle -/

/-- The state after a computation: the result is stored, CC.OVF written where the function writes it, the inputs cleared
(R90). -/
def State.storeResult (s : State) (v : Word) (ovf : Option Bool) : State :=
  { s with
    result := some v
    cc := (match ovf with | some b => ccWithOverflow s.cc b | none => s.cc)
    op1 := none
    op2 := none
    ctrl := none
    astate := .finished }

/-- One cycle of the ALU (R90). -/
def aluPhase (s : State) : PhaseResult :=
  match s.astate with
  | .startComputation =>
    match s.op1, s.op2, s.ctrl with
    | some a, some b, some c => orRaise (aluCompute c a b) fun r => .done (s.storeResult r.1 r.2)
    | _, _, _ => .raise (.aluProtocol .missingInput)
  | .finished => .done { s with astate := .none, result := none }
  | .none => .done s

end Sys2Proof.Machine
end

