-- ==== Sys2Proof/Machine/Operands.lean ====
section
/-!
DEFINITION. The operand forms (30_encoding.md sections 2 and 3): the effective-address modes and formulas (R58), the
immediate (R60) and the shift operands (R62).
-/

namespace Sys2Proof.Machine

open Sys2Proof

/-- The mode that (ibit, xfi) selects (R58; a partition of the pairs, 90_conflicts.md C2). -/
def eaMode (f : Fields) : EaMode :=
  if f.ibit then (if f.xfi = 0 then .indexed else .indexedOffset)
  else if f.xfi = 0 then .direct else .registerIndirect

/-- What the index field adds to the address field: `uval(X[xfi])`, and nothing for field 0 (R58; 10_state.md R20; read
unsigned, 92_eei_decisions.md D6). -/
def State.indexValue (s : State) (x : Fin 4) : Nat :=
  match s.index.get x with
  | some v => v.toNat
  | none => 0

/-- `uval(X[xfi]) + addr`, or `addr` for field 0, on unbounded naturals (R58; 10_state.md R30): the effective address of
the two modes without indirection, and the address read by the two modes with it. -/
def State.baseAddress (s : State) (f : Fields) : Nat := s.indexValue f.xfi + f.addr.toNat

/-- The effective address by the formula of its mode (R58). -/
def State.effectiveAddress (s : State) (f : Fields) : Nat :=
  if f.ibit then (s.mem.read (s.baseAddress f)).toNat else s.baseAddress f

/-- The immediate of AIR, SIR and RFS, widened to 20 bits (R60). -/
def immediate (ext : ImmExt) (f : Fields) : Word :=
  match ext with
  | .zero => zext 20 f.addr
  | .sign => sext 20 f.addr

/-- L/R of SRC and RRC: `xfi mod 2` = IR<9>, 1 for left (R62). -/
def shiftDirection (f : Fields) : Direction := if f.xfi.val % 2 = 1 then .left else .right

/-- A/L of SRC: `xfi div 2` = IR<8>, 1 for logical (R62). -/
def shiftMode (f : Fields) : ShiftMode := if f.xfi.val / 2 = 1 then .logical else .arithmetic

/-- The count of SRC and RRC, 0 to 255 (R62). -/
def shiftCount (f : Fields) : Nat := f.addr.toNat

end Sys2Proof.Machine
end

