-- ==== Sys2Proof/Machine/Cycle.lean ====
section
/-!
DEFINITION. The tick and the instruction cycle (40_cycle.md): the microsteps of FETCH (R76, R77) and DECODE (R78 to R80),
the phases of one tick (R70, R72, 60_exceptions.md R130), and the ticks that run one instruction to its end.
-/

namespace Sys2Proof.Machine

open Sys2Proof

/-! ## Fetch -/

/-- The microsteps of FETCH (R76, R77). -/
def fetchMicrostep (s : State) : PhaseResult :=
  match s.micro with
  | 0 => orStall s (State.setMAR { s with cc := 0 } (s.pc.toNat)) fun s' => .done s'.nextMicro
  | 1 => .done (State.enter { s with ir := s.mbr } .decode)
  | _ => .noRule

/-! ## Decode and the effective address -/

/-- DECODE, µ = 0 (R78): the decoded fields are latched and the mode classified; AIR and SIR skip the effective address. -/
def decodeStart (op : BitVec 6) (f : Fields) (s : State) : State :=
  if op = Config.opcodeMap .AIR ∨ op = Config.opcodeMap .SIR then
    State.enter { s with dec := some { opcode := op, fields := f, mode := .none }, ea := none } .execute
  else
    match eaMode f with
    | .direct =>
      State.enter { s with dec := some { opcode := op, fields := f, mode := .direct }, ea := some (f.addr.toNat) } .execute
    | mode => State.nextMicro { s with dec := some { opcode := op, fields := f, mode := mode } }

/-- The microsteps of DECODE (R78, R79, R80), for the opcode and fields that µ = 0 latches; the later microsteps read
the latch. -/
def decodeMicrostep (op : BitVec 6) (f : Fields) (s : State) : PhaseResult :=
  match s.micro with
  | 0 => .done (decodeStart op f s)
  | 1 =>
    match s.dec with
    | none => .noRule
    | some d =>
      match d.mode with
      | .registerIndirect => .done (State.enter { s with ea := some (s.baseAddress d.fields) } .execute)
      | .indexed => orStall s (s.setMAR (d.fields.addr.toNat)) fun s' => .done s'.nextMicro
      | .indexedOffset => orStall s (s.setMAR (s.baseAddress d.fields)) fun s' => .done s'.nextMicro
      | .none | .direct => .noRule
  | 2 =>
    match s.dec with
    | none => .noRule
    | some d =>
      match d.mode with
      | .indexed | .indexedOffset => .done (State.enter { s with ea := some (s.mbr.toNat) } .execute)
      | .none | .direct | .registerIndirect => .noRule
  | _ => .noRule

/-! ## The tick -/

/-- Go on to the next phase of the tick, or end the tick: with the fault taken from the state `s` in which the phase ran
(60_exceptions.md R129, R130), or with no rule to follow (log entry 3). -/
def PhaseResult.andThen (r : PhaseResult) (s : State) (phase : TickPhase)
    (k : State → Host.Outcome State Fault Refusal) : Host.Outcome State Fault Refusal :=
  match r with
  | .done s' => k s'
  | .raise e => .next (s.takeFault e phase)
  | .noRule => .fault (.noMicrostep s.top s.micro)

/-- One tick with a given control-unit phase (R70): control unit, ALU, memory, I/O; nothing after a halt or a fault
(R72). -/
def tickWith (controlUnit : State → PhaseResult) (s : State) : Host.Outcome State Fault Refusal :=
  if s.stopped then .next s
  else
    (controlUnit s).andThen s .controlUnit fun s1 =>
      (aluPhase s1).andThen s1 .alu fun s2 =>
        (memoryPhase s2).andThen s2 .memory fun s3 => .next (ioPhase s3)

/-! ## Running one instruction to its end -/

/-- A tick from `s` to `s'` ended an instruction: it completed (the control unit came back to FETCH), or the run ended
(R84, R86). -/
def instructionEnded (s s' : State) : Bool := s'.stopped || (decide (s.top ≠ .fetch) && decide (s'.top = .fetch))

/-- Ticks until an instruction ends, at most `n`. -/
def toEnd (tick : State → Host.Outcome State Fault Refusal) : Nat → State → Host.Outcome State Fault Refusal
  | 0, s => .next s
  | n + 1, s =>
    match tick s with
    | .next s' => if instructionEnded s s' then .next s' else toEnd tick n s'
    | .fault r => .fault r
    | .refused r => .refused r

/-- A bound on the ticks of one instruction: the largest total of 70_reset_and_hazards.md R151, and one for the stall that
a host request can cause (R148). No instruction needs more (log entry 15). -/
def maxTicks : Nat := 12

/-- The control unit running one given instruction: its fields are what DECODE µ0 latches, and `execute` is its
microsequence (R81). -/
def instructionControlUnit (op : BitVec 6) (f : Fields) (execute : State → PhaseResult) (s : State) : PhaseResult :=
  match s.top with
  | .fetch => fetchMicrostep s
  | .decode => decodeMicrostep op f s
  | .execute => execute s

/-- Running one instruction from where the control unit stands to the instruction's end, tick by tick. -/
def runInstruction (op : BitVec 6) (f : Fields) (execute : State → PhaseResult) (s : State) :
    Host.Outcome State Fault Refusal :=
  toEnd (tickWith (instructionControlUnit op f execute)) maxTicks s

/-! ## Fetching an instruction -/

/-- The ticks of FETCH, at most `n`: they leave the control unit at DECODE with the word in IR, or stop the run. -/
def fetchTicks : Nat → State → Host.Outcome State Fault Refusal
  | 0, s => .next s
  | n + 1, s =>
    if s.top = .fetch ∧ s.stopped = false then
      match tickWith fetchMicrostep s with
      | .next s' => fetchTicks n s'
      | .fault r => .fault r
      | .refused r => .refused r
    else .next s

/-- A bound on the ticks of FETCH: its two microsteps (R76, R77) and one stall (R74). -/
def maxFetchTicks : Nat := 3

/-- Fetching: nothing when the control unit is past FETCH already. -/
def fetchInstruction (s : State) : Host.Outcome State Fault Refusal := fetchTicks maxFetchTicks s

/-- The word of the instruction being executed: the latched fields once DECODE µ0 has run, IR before (10_state.md R22,
R29). -/
def State.currentWord (s : State) : Word :=
  match s.dec with
  | some d => packWord d.opcode d.fields
  | none => s.ir

/-- EXECUTE of an opcode that is no instruction (R81, 30_encoding.md R67). -/
def unhandledMicrostep (op : BitVec 6) (_ : State) : PhaseResult := .raise (.unhandledOpcode op)

/-- Running a word whose opcode is no instruction: it is decoded like any other, then faults (30_encoding.md R67). -/
def runUnhandled (op : BitVec 6) (s : State) : Host.Outcome State Fault Refusal :=
  runInstruction op (fieldsOf s.currentWord) (unhandledMicrostep op) s

end Sys2Proof.Machine
end

