-- ==== Sys2Proof/Machine/Arithmetic.lean ====
section
/-!
DEFINITION. AMR, SMR, AIR, SIR: their microsequences and meanings (43_arithmetic.md R107 to R110).
-/

namespace Sys2Proof.Machine

open Sys2Proof

/-- AMR (R107): R[r] ← M[ea] + R[r], through the ALU. -/
def amrMicrostep (f : Fields) (s : State) : PhaseResult :=
  match s.micro with
  | 0 => s.withEa fun ea => orStall s (s.setMAR ea) fun s' => .done s'.nextMicro
  | 1 => .done (s.setOperand1 s.mbr).nextMicro
  | 2 => .done (s.setOperand2 (s.reg f.r)).nextMicro
  | 3 => .done (s.setControl .add).nextMicro
  | 4 => .done s.signalReady.nextMicro
  | 5 => s.withResult fun v => (s.setReg f.r v).complete
  | _ => .noRule

/-- SMR (R108): R[r] ← M[ea] − R[r], or R[r] − M[ea] under the other `SMR_ORDER`. -/
def smrMicrostep (order : SmrOrder) (f : Fields) (s : State) : PhaseResult :=
  match s.micro with
  | 0 => s.withEa fun ea => orStall s (s.setMAR ea) fun s' => .done s'.nextMicro
  | 1 =>
    match order with
    | .memMinusReg => .done (s.setOperand1 s.mbr).nextMicro
    | .regMinusMem => .done (s.setOperand1 (s.reg f.r)).nextMicro
  | 2 =>
    match order with
    | .memMinusReg => .done (s.setOperand2 (s.reg f.r)).nextMicro
    | .regMinusMem => .done (s.setOperand2 s.mbr).nextMicro
  | 3 => .done (s.setControl .subtract).nextMicro
  | 4 => .done s.signalReady.nextMicro
  | 5 => s.withResult fun v => (s.setReg f.r v).complete
  | _ => .noRule

/-- AIR (R109): R[r] ← R[r] + immed. -/
def airMicrostep (ext : ImmExt) (f : Fields) (s : State) : PhaseResult :=
  match s.micro with
  | 0 => .done (s.setOperand1 (s.reg f.r)).nextMicro
  | 1 => .done (s.setOperand2 (immediate ext f)).nextMicro
  | 2 => .done (s.setControl .add).nextMicro
  | 3 => .done s.signalReady.nextMicro
  | 4 => s.withResult fun v => (s.setReg f.r v).complete
  | _ => .noRule

/-- SIR (R110): R[r] ← R[r] − immed. -/
def sirMicrostep (ext : ImmExt) (f : Fields) (s : State) : PhaseResult :=
  match s.micro with
  | 0 => .done (s.setOperand1 (s.reg f.r)).nextMicro
  | 1 => .done (s.setOperand2 (immediate ext f)).nextMicro
  | 2 => .done (s.setControl .subtract).nextMicro
  | 3 => .done s.signalReady.nextMicro
  | 4 => s.withResult fun v => (s.setReg f.r v).complete
  | _ => .noRule

/-- The meaning of AMR. -/
def execAmr (f : Fields) (s : State) : Host.Outcome State Fault Refusal :=
  runInstruction (Config.opcodeMap .AMR) f (amrMicrostep f) s

/-- The meaning of SMR. -/
def execSmr (f : Fields) (s : State) : Host.Outcome State Fault Refusal :=
  runInstruction (Config.opcodeMap .SMR) f (smrMicrostep Config.smrOrder f) s

/-- The meaning of AIR. -/
def execAir (f : Fields) (s : State) : Host.Outcome State Fault Refusal :=
  runInstruction (Config.opcodeMap .AIR) f (airMicrostep Config.immExt f) s

/-- The meaning of SIR. -/
def execSir (f : Fields) (s : State) : Host.Outcome State Fault Refusal :=
  runInstruction (Config.opcodeMap .SIR) f (sirMicrostep Config.immExt f) s

end Sys2Proof.Machine
end

