-- ==== Sys2Proof/Machine/LoadStore.lean ====
section
/-!
DEFINITION. HLT, LDR, STR, LDA, LDX, STX: their microsequences and meanings (42_halt_load_store.md R101 to R106).
-/

namespace Sys2Proof.Machine

open Sys2Proof

/-- HLT (R101): E0 raises Halt; completion does not run. -/
def hltMicrostep (s : State) : PhaseResult :=
  match s.micro with
  | 0 => .done s.halt
  | _ => .noRule

/-- LDR (R102): R[r] ← M[ea]. -/
def ldrMicrostep (f : Fields) (s : State) : PhaseResult :=
  match s.micro with
  | 0 => s.withEa fun ea => orStall s (s.setMAR ea) fun s' => .done s'.nextMicro
  | 1 => (s.setReg f.r s.mbr).complete
  | _ => .noRule

/-- STR (R103): M[ea] ← R[r]. -/
def strMicrostep (f : Fields) (s : State) : PhaseResult :=
  match s.micro with
  | 0 =>
    s.withEa fun ea =>
      orStall s (s.setMAR ea) fun s1 => orStall s (s1.setMBR (s.reg f.r)) fun s2 => .done s2.nextMicro
  | 1 => s.complete
  | _ => .noRule

/-- LDA (R104): R[r] ← ea. -/
def ldaMicrostep (f : Fields) (s : State) : PhaseResult :=
  match s.micro with
  | 0 => s.withEa fun ea => orRaise (construct 20 ea) fun v => .done (s.setReg f.r v).nextMicro
  | 1 => s.complete
  | _ => .noRule

/-- LDX (R105): X[x] ← M[ea], for x from 1 to 3. -/
def ldxMicrostep (f : Fields) (s : State) : PhaseResult :=
  match s.micro with
  | 0 =>
    if f.xfi = 0 then .raise (.invalidRegister 0)
    else s.withEa fun ea => orStall s (s.setMAR ea) fun s' => .done s'.nextMicro
  | 1 => orRaise (construct 13 (s.mbr.toNat)) fun v => (s.setIndex f.xfi v).complete
  | _ => .noRule

/-- STX (R106): M[ea] ← zext_20(X[x]), for x from 1 to 3. -/
def stxMicrostep (f : Fields) (s : State) : PhaseResult :=
  match s.micro with
  | 0 =>
    match s.index.get f.xfi with
    | none => .raise (.invalidRegister 0)
    | some x =>
      s.withEa fun ea =>
        orStall s (s.setMAR ea) fun s1 => orStall s (s1.setMBR (zext 20 x)) fun s2 => .done s2.nextMicro
  | 1 => s.complete
  | _ => .noRule

/-- The meaning of HLT. -/
def execHlt (f : Fields) (s : State) : Host.Outcome State Fault Refusal :=
  runInstruction (Config.opcodeMap .HLT) f hltMicrostep s

/-- The meaning of LDR. -/
def execLdr (f : Fields) (s : State) : Host.Outcome State Fault Refusal :=
  runInstruction (Config.opcodeMap .LDR) f (ldrMicrostep f) s

/-- The meaning of STR. -/
def execStr (f : Fields) (s : State) : Host.Outcome State Fault Refusal :=
  runInstruction (Config.opcodeMap .STR) f (strMicrostep f) s

/-- The meaning of LDA. -/
def execLda (f : Fields) (s : State) : Host.Outcome State Fault Refusal :=
  runInstruction (Config.opcodeMap .LDA) f (ldaMicrostep f) s

/-- The meaning of LDX. -/
def execLdx (f : Fields) (s : State) : Host.Outcome State Fault Refusal :=
  runInstruction (Config.opcodeMap .LDX) f (ldxMicrostep f) s

/-- The meaning of STX. -/
def execStx (f : Fields) (s : State) : Host.Outcome State Fault Refusal :=
  runInstruction (Config.opcodeMap .STX) f (stxMicrostep f) s

end Sys2Proof.Machine
end

