-- ==== Sys2Proof/Machine/ShiftLogical.lean ====
section
/-!
DEFINITION. SRC, RRC, TRR, AND, ORR, NOT: their microsequences and meanings (45_shift_logical.md R120 to R125).
-/

namespace Sys2Proof.Machine

open Sys2Proof

/-- SRC (R120): R[r] ← shift_20(R[r], count, L/R, A/L). -/
def srcMicrostep (f : Fields) (s : State) : PhaseResult :=
  match s.micro with
  | 0 => (s.setReg f.r (shift (s.reg f.r) (shiftCount f) (shiftDirection f) (shiftMode f))).complete
  | _ => .noRule

/-- RRC (R121): R[r] ← rotate_20(R[r], count, L/R). -/
def rrcMicrostep (f : Fields) (s : State) : PhaseResult :=
  match s.micro with
  | 0 => (s.setReg f.r (rotate (s.reg f.r) (shiftCount f) (shiftDirection f))).complete
  | _ => .noRule

/-- TRR (R122): CC.EQ ← 1 if R[rx] = R[ry], else 0. -/
def trrMicrostep (f : Fields) (s : State) : PhaseResult :=
  match s.micro with
  | 0 => State.complete { s with cc := ccWithEqual s.cc (s.reg f.r == s.reg f.ry) }
  | _ => .noRule

/-- AND (R123): R[rx] ← R[rx] ∧ R[ry], through the ALU. -/
def andMicrostep (f : Fields) (s : State) : PhaseResult :=
  match s.micro with
  | 0 => .done (s.setOperand1 (s.reg f.r)).nextMicro
  | 1 => .done (s.setOperand2 (s.reg f.ry)).nextMicro
  | 2 => .done (s.setControl .and).nextMicro
  | 3 => .done s.signalReady.nextMicro
  | 4 => s.withResult fun v => (s.setReg f.r v).complete
  | _ => .noRule

/-- ORR (R124): R[rx] ← R[rx] ∨ R[ry], by the OR helper. -/
def orrMicrostep (f : Fields) (s : State) : PhaseResult :=
  match s.micro with
  | 0 => (s.setReg f.r (orHelper (s.reg f.r) (s.reg f.ry))).complete
  | _ => .noRule

/-- NOT (R125): R[rx] with every bit inverted. -/
def notMicrostep (f : Fields) (s : State) : PhaseResult :=
  match s.micro with
  | 0 => (s.setReg f.r (~~~(s.reg f.r))).complete
  | _ => .noRule

/-- The meaning of SRC. -/
def execSrc (f : Fields) (s : State) : Host.Outcome State Fault Refusal :=
  runInstruction (Config.opcodeMap .SRC) f (srcMicrostep f) s

/-- The meaning of RRC. -/
def execRrc (f : Fields) (s : State) : Host.Outcome State Fault Refusal :=
  runInstruction (Config.opcodeMap .RRC) f (rrcMicrostep f) s

/-- The meaning of TRR. -/
def execTrr (f : Fields) (s : State) : Host.Outcome State Fault Refusal :=
  runInstruction (Config.opcodeMap .TRR) f (trrMicrostep f) s

/-- The meaning of AND. -/
def execAnd (f : Fields) (s : State) : Host.Outcome State Fault Refusal :=
  runInstruction (Config.opcodeMap .AND) f (andMicrostep f) s

/-- The meaning of ORR. -/
def execOrr (f : Fields) (s : State) : Host.Outcome State Fault Refusal :=
  runInstruction (Config.opcodeMap .ORR) f (orrMicrostep f) s

/-- The meaning of NOT. -/
def execNot (f : Fields) (s : State) : Host.Outcome State Fault Refusal :=
  runInstruction (Config.opcodeMap .NOT) f (notMicrostep f) s

end Sys2Proof.Machine
end

