-- ==== Sys2Proof/Machine/Transfer.lean ====
section
/-!
DEFINITION. JZ, JNE, JCC, JMP, JSR, RFS, SOB, JGE: their microsequences and meanings (44_control_transfer.md R111 to
R119).
-/

namespace Sys2Proof.Machine

open Sys2Proof

/-- A jump taken or not: the target is tested only when the transfer is taken (R111). -/
def jumpWhen (taken : Bool) (s : State) : PhaseResult :=
  if taken then s.withEa fun ea => s.jumpTo ea State.complete else s.complete

/-- JZ (R112): taken when R[r] = 0. -/
def jzMicrostep (f : Fields) (s : State) : PhaseResult :=
  match s.micro with
  | 0 => jumpWhen ((s.reg f.r).toNat == 0) s
  | _ => .noRule

/-- JNE (R113): taken when R[r] ≠ 0. -/
def jneMicrostep (f : Fields) (s : State) : PhaseResult :=
  match s.micro with
  | 0 => jumpWhen ((s.reg f.r).toNat != 0) s
  | _ => .noRule

/-- JCC (R114): taken when CC<cc> = 1. -/
def jccMicrostep (f : Fields) (s : State) : PhaseResult :=
  match s.micro with
  | 0 => jumpWhen (ccBit s.cc f.cc) s
  | _ => .noRule

/-- JMP (R115): always taken. -/
def jmpMicrostep (s : State) : PhaseResult :=
  match s.micro with
  | 0 => jumpWhen true s
  | _ => .noRule

/-- JSR (R116): R[LINK_REG] ← PC + 1, then PC ← ea; the target is constructed before anything is written. -/
def jsrMicrostep (link : Fin 4) (s : State) : PhaseResult :=
  match s.micro with
  | 0 =>
    s.withEa fun ea =>
      s.jumpTo ea fun s1 => orRaise (construct 20 (s.pc.toNat + 1)) fun v => (s1.setReg link v).complete
  | _ => .noRule

/-- RFS (R117): R0 ← immed under `RFS_WRITES_R0`, then PC ← R[LINK_REG]; the target is constructed before anything is
written. -/
def rfsMicrostep (link : Fin 4) (writesR0 : Bool) (ext : ImmExt) (f : Fields) (s : State) : PhaseResult :=
  match s.micro with
  | 0 =>
    s.jumpTo ((s.reg link).toNat) fun s1 =>
      if writesR0 then (s1.setReg 0 (immediate ext f)).complete else s1.complete
  | _ => .noRule

/-- SOB (R118): R[r] ← R[r] − 1 through the ALU, taken when the difference is > 0; the target is tested before any
write. -/
def sobMicrostep (f : Fields) (s : State) : PhaseResult :=
  match s.micro with
  | 0 => .done (s.setOperand1 (s.reg f.r)).nextMicro
  | 1 => orRaise (construct 20 1) fun one => .done (s.setOperand2 one).nextMicro
  | 2 => .done (s.setControl .subtract).nextMicro
  | 3 => .done s.signalReady.nextMicro
  | 4 =>
    s.withResult fun v =>
      if 0 < v.toInt then s.withEa fun ea => s.jumpTo ea fun s1 => (s1.setReg f.r v).complete
      else (s.setReg f.r v).complete
  | _ => .noRule

/-- JGE (R119): taken when the sign bit R[r]<0> is clear. -/
def jgeMicrostep (f : Fields) (s : State) : PhaseResult :=
  match s.micro with
  | 0 => jumpWhen (!(s.reg f.r).msb) s
  | _ => .noRule

/-- The meaning of JZ. -/
def execJz (f : Fields) (s : State) : Host.Outcome State Fault Refusal :=
  runInstruction (Config.opcodeMap .JZ) f (jzMicrostep f) s

/-- The meaning of JNE. -/
def execJne (f : Fields) (s : State) : Host.Outcome State Fault Refusal :=
  runInstruction (Config.opcodeMap .JNE) f (jneMicrostep f) s

/-- The meaning of JCC. -/
def execJcc (f : Fields) (s : State) : Host.Outcome State Fault Refusal :=
  runInstruction (Config.opcodeMap .JCC) f (jccMicrostep f) s

/-- The meaning of JMP. -/
def execJmp (f : Fields) (s : State) : Host.Outcome State Fault Refusal :=
  runInstruction (Config.opcodeMap .JMP) f jmpMicrostep s

/-- The meaning of JSR. -/
def execJsr (f : Fields) (s : State) : Host.Outcome State Fault Refusal :=
  runInstruction (Config.opcodeMap .JSR) f (jsrMicrostep Config.linkReg) s

/-- The meaning of RFS. -/
def execRfs (f : Fields) (s : State) : Host.Outcome State Fault Refusal :=
  runInstruction (Config.opcodeMap .RFS) f (rfsMicrostep Config.linkReg Config.rfsWritesR0 Config.immExt f) s

/-- The meaning of SOB. -/
def execSob (f : Fields) (s : State) : Host.Outcome State Fault Refusal :=
  runInstruction (Config.opcodeMap .SOB) f (sobMicrostep f) s

/-- The meaning of JGE. -/
def execJge (f : Fields) (s : State) : Host.Outcome State Fault Refusal :=
  runInstruction (Config.opcodeMap .JGE) f (jgeMicrostep f) s

end Sys2Proof.Machine
end

