-- ==== Sys2Proof/Machine/Dispatch.lean ====
section
/-!
DEFINITION. The dispatch by instruction (40_cycle.md R81): one arm per row of the opcode table, in the table's order.
`exec i s` runs the ticks of instruction `i` from where the control unit of `s` stands to the instruction's end (log
entries 1 and 14).
-/

namespace Sys2Proof.Machine

open Sys2Proof

def exec (i : Instr) (s : State) : Host.Outcome State Fault Refusal :=
  match i with
  | .hlt f => Sys2Proof.Machine.execHlt f s
  | .ldr f => Sys2Proof.Machine.execLdr f s
  | .str f => Sys2Proof.Machine.execStr f s
  | .lda f => Sys2Proof.Machine.execLda f s
  | .ldx f => Sys2Proof.Machine.execLdx f s
  | .stx f => Sys2Proof.Machine.execStx f s
  | .amr f => Sys2Proof.Machine.execAmr f s
  | .smr f => Sys2Proof.Machine.execSmr f s
  | .air f => Sys2Proof.Machine.execAir f s
  | .sir f => Sys2Proof.Machine.execSir f s
  | .jz f => Sys2Proof.Machine.execJz f s
  | .jne f => Sys2Proof.Machine.execJne f s
  | .jcc f => Sys2Proof.Machine.execJcc f s
  | .jmp f => Sys2Proof.Machine.execJmp f s
  | .jsr f => Sys2Proof.Machine.execJsr f s
  | .rfs f => Sys2Proof.Machine.execRfs f s
  | .sob f => Sys2Proof.Machine.execSob f s
  | .jge f => Sys2Proof.Machine.execJge f s
  | .trr f => Sys2Proof.Machine.execTrr f s
  | .and f => Sys2Proof.Machine.execAnd f s
  | .orr f => Sys2Proof.Machine.execOrr f s
  | .not f => Sys2Proof.Machine.execNot f s
  | .src f => Sys2Proof.Machine.execSrc f s
  | .rrc f => Sys2Proof.Machine.execRrc f s

end Sys2Proof.Machine
end

