-- ==== Sys2Proof/Machine/Step.lean ====
section
/-!
DEFINITION. One step of the machine: the ticks of one whole instruction, from the fetch to its end (40_cycle.md R75, R84;
log entry 1; the tick itself is `Machine.tick`). And where a step finds its next instruction.
-/

namespace Sys2Proof.Machine

open Sys2Proof

/-- Decode and execute the instruction of the current word: its meaning, or the fault of an unhandled opcode (R67, R81). -/
def runCurrent (s : State) : Host.Outcome State Fault Refusal :=
  match decode s.currentWord with
  | .ok i => exec i s
  | .error (.unhandledOpcode op) => runUnhandled op s

/-- One step: fetch, unless the control unit is past FETCH already, then decode and execute to the instruction's end. A
halted or faulted machine does not change (R72). -/
def step (s : State) : Host.Outcome State Fault Refusal :=
  match fetchInstruction s with
  | .next s' => if s'.stopped then .next s' else runCurrent s'
  | .fault r => .fault r
  | .refused r => .refused r

/-- The state with the instruction word `w` where the next fetch reads: the cell PC names. It stands for the host's deposit
(20_memory.md R45; 70_reset_and_hazards.md R146; log entry 12). Where PC names no cell the word and PC go to address 0, and
a machine that is not about to fetch is put at FETCH µ0 with idle units; at an instruction boundary of a running machine
with PC below 2048 nothing but that cell changes (log entry 13). -/
def State.withFetchWord (s : State) (_nbits w : Nat) : State :=
  let pc : Addr := if inRange (s.pc.toNat) then s.pc else 0
  { s with
    pc := pc
    mem := s.mem.write (pc.toNat) (BitVec.ofNat 20 w)
    top := .fetch
    micro := 0
    dec := none
    ea := none
    nextPC := none
    halted := false
    fault := none
    mstate := .none
    astate := .none
    op1 := none
    op2 := none
    ctrl := none
    result := none }

end Sys2Proof.Machine
end

