-- ==== Sys2Proof/Machine/ControlUnit.lean ====
section
/-!
DEFINITION. The control unit's phase of a tick and the machine's tick, `clockCycle` (40_cycle.md R69 to R73, R81): one
microstep from `top`, µ and the latched opcode.
-/

namespace Sys2Proof.Machine

open Sys2Proof

/-- The microsequence of an instruction: its microstep µ in EXECUTE (R81, R82). -/
def executeMicrostep (i : Instr) (s : State) : PhaseResult :=
  match i with
  | .hlt _ => hltMicrostep s
  | .ldr f => ldrMicrostep f s
  | .str f => strMicrostep f s
  | .lda f => ldaMicrostep f s
  | .ldx f => ldxMicrostep f s
  | .stx f => stxMicrostep f s
  | .amr f => amrMicrostep f s
  | .smr f => smrMicrostep Config.smrOrder f s
  | .air f => airMicrostep Config.immExt f s
  | .sir f => sirMicrostep Config.immExt f s
  | .jz f => jzMicrostep f s
  | .jne f => jneMicrostep f s
  | .jcc f => jccMicrostep f s
  | .jmp _ => jmpMicrostep s
  | .jsr _ => jsrMicrostep Config.linkReg s
  | .rfs f => rfsMicrostep Config.linkReg Config.rfsWritesR0 Config.immExt f s
  | .sob f => sobMicrostep f s
  | .jge f => jgeMicrostep f s
  | .trr f => trrMicrostep f s
  | .and f => andMicrostep f s
  | .orr f => orrMicrostep f s
  | .not f => notMicrostep f s
  | .src f => srcMicrostep f s
  | .rrc f => rrcMicrostep f s

/-- The microstep of the control unit in this tick (R73): DECODE µ0 reads the fields of IR (R78), EXECUTE dispatches on the
latched opcode (R81). -/
def controlUnitPhase (s : State) : PhaseResult :=
  match s.top with
  | .fetch => fetchMicrostep s
  | .decode => decodeMicrostep (opcodeField s.ir) (fieldsOf s.ir) s
  | .execute =>
    match s.dec with
    | none => .noRule
    | some d =>
      match decode (packWord d.opcode d.fields) with
      | .ok i => executeMicrostep i s
      | .error (.unhandledOpcode op) => unhandledMicrostep op s

/-- `clockCycle`: one tick of the machine (R69, R70, R72). -/
def tick (s : State) : Host.Outcome State Fault Refusal := tickWith controlUnitPhase s

/-- `n` ticks. -/
def ticks : Nat → State → Host.Outcome State Fault Refusal
  | 0, s => .next s
  | n + 1, s =>
    match tick s with
    | .next s' => ticks n s'
    | .fault r => .fault r
    | .refused r => .refused r

/-- The ticks of the current instruction to its end. -/
def tickToEnd (s : State) : Host.Outcome State Fault Refusal := toEnd tick maxTicks s

end Sys2Proof.Machine
end

