-- ==== Sys2Proof/Machine/Surface.lean ====
section
/-!
DEFINITION. What the machine's host may do between two ticks (70_reset_and_hazards.md R147): read and write registers by
name (10_state.md R31), use the engineering interface to memory (20_memory.md R45), observe the end of a run, and tick.
-/

namespace Sys2Proof.Machine

open Sys2Proof

/-- The index registers as named on the surface, X1 to X3 (R31). -/
inductive IndexName where
  | x1
  | x2
  | x3
  deriving DecidableEq, Repr

/-- The number of an index register (R20). -/
def IndexName.id : IndexName → Fin 4
  | .x1 => 1
  | .x2 => 2
  | .x3 => 3

/-- The names of the surface: R0–R3, X1–X3, MAR, MBR, PC, CC, IR (R31). MSR, MFR, the hidden state and the memory array
have no name there. -/
inductive RegName where
  | general (i : Fin 4)
  | index (i : IndexName)
  | mar
  | mbr
  | pc
  | cc
  | ir
  deriving DecidableEq, Repr

/-- What the host gets back from an action (R147). -/
inductive HostReply where
  /-- Nothing is reported: a tick, or a write of CC, which is silently ignored (R31). -/
  | nothing
  /-- The action was performed. -/
  | success
  /-- A MAR or MBR write found the memory unit busy (R31, R148). -/
  | refused
  /-- A value failed its construction check, and nothing changed (R31, R45). -/
  | constructionError (width : Nat) (value : Int)
  /-- An engineering access named no cell, and nothing changed (R45). -/
  | addressError (address : Nat)
  /-- The unsigned value of a register or memory word. -/
  | value (n : Nat)
  /-- The end of the run: `halted`, and the fault record (R147). -/
  | runState (halted : Bool) (fault : Option FaultRecord)
  deriving DecidableEq, Repr

/-- Reading a register by name: its current pattern, here as its unsigned value; CC as 8·OVF + 4·UNF + 2·DVZ + EQ
(R27, R31). -/
def State.readRegister (s : State) : RegName → Nat
  | .general i => (s.reg i).toNat
  | .index i => s.indexValue i.id
  | .mar => s.mar.toNat
  | .mbr => s.mbr.toNat
  | .pc => s.pc.toNat
  | .cc => s.cc.toNat
  | .ir => s.ir.toNat

/-- The reply to the host for a failed construction; the machine is not faulted (R31). -/
def constructionReply : FaultKind → HostReply
  | .construction w n => .constructionError w n
  | _ => .nothing

/-- A host write that constructs a pattern of width `w`: the write, or the error with the state unchanged (R31). -/
def hostConstruct (s : State) (w : Nat) (n : Int) (k : BitVec w → HostReply × State) : HostReply × State :=
  match construct w n with
  | .ok v => k v
  | .error e => (constructionReply e, s)

/-- A host write that is a memory request: a refused or failed one changes nothing (R31, R148). -/
def hostRequest (s : State) : Request → HostReply × State
  | .accepted s' => (.success, s')
  | .refused => (.refused, s)
  | .failed e => (constructionReply e, s)

/-- Writing a register by name (R31). For MBR the busy test and the construction check can both fail; the reply is then the
construction error, since the pattern is constructed before the request is made (R31: `setMBR(construct_20(n))`). -/
def State.writeRegister (s : State) (r : RegName) (n : Int) : HostReply × State :=
  match r with
  | .general i => hostConstruct s 20 n fun v => (.success, s.setReg i v)
  | .index i => hostConstruct s 13 n fun v => (.success, s.setIndex i.id v)
  | .pc => hostConstruct s 13 n fun v => (.success, { s with pc := v })
  | .ir => hostConstruct s 20 n fun v => (.success, { s with ir := v })
  | .mar => hostRequest s (s.setMAR n)
  | .mbr => hostConstruct s 20 n fun v => hostRequest s (s.setMBR v)
  | .cc => (.nothing, s)

/-- `engineerSetMemoryLocation(a, n)` (20_memory.md R45): bypasses MAR, MBR and `mstate`. With both the address and the
value bad the reply is the address error (DESIGN CHOICE, log entry 16). -/
def State.engineerSet (s : State) (a : Nat) (n : Int) : HostReply × State :=
  if inRange a then hostConstruct s 20 n fun v => (.success, { s with mem := s.mem.write a v })
  else (.addressError a, s)

/-- `engineerFetchByMemoryLocation(a)` (20_memory.md R45). -/
def State.engineerFetch (s : State) (a : Nat) : HostReply × State :=
  if inRange a then (.value ((s.mem.read a).toNat), s) else (.addressError a, s)

/-- The host's actions other than the tick (R147). -/
inductive HostAction where
  | readRegister (r : RegName)
  | writeRegister (r : RegName) (n : Int)
  | engineerSet (a : Nat) (n : Int)
  | engineerFetch (a : Nat)
  | observe
  deriving DecidableEq, Repr

/-- One host action, performed entirely between two ticks (R147). -/
def State.perform (s : State) : HostAction → HostReply × State
  | .readRegister r => (.value (s.readRegister r), s)
  | .writeRegister r n => s.writeRegister r n
  | .engineerSet a n => s.engineerSet a n
  | .engineerFetch a => s.engineerFetch a
  | .observe => (.runState s.halted s.fault, s)

/-- What happens to a machine, one after another: a tick, or a host action between ticks (R147). -/
inductive Event where
  | clockCycle
  | host (a : HostAction)
  deriving DecidableEq, Repr

/-- The machine after a sequence of ticks and host actions. -/
def runEvents : List Event → State → Host.Outcome State Fault Refusal
  | [], s => .next s
  | .clockCycle :: rest, s =>
    match tick s with
    | .next s' => runEvents rest s'
    | .fault r => .fault r
    | .refused r => .refused r
  | .host a :: rest, s => runEvents rest (s.perform a).2

end Sys2Proof.Machine
end

