-- ==== Sys2Proof/Safety.lean ====
section
/-!
DEFINITION. The words the statements use: when the machine is about to fetch or to decode, what fetching and decoding
leave behind, how long an instruction takes, and the invariants of the machine.
-/

namespace Sys2Proof.Machine

open Sys2Proof

/-! ## Where the machine stands -/

/-- The ALU has nothing staged and no result (41_alu.md R87). -/
abbrev State.AluIdle (s : State) : Prop :=
  s.astate = .none ∧ s.op1 = none ∧ s.op2 = none ∧ s.ctrl = none ∧ s.result = none

/-- A running machine at an instruction boundary: at FETCH µ0 with no latches, the ALU idle and the memory unit free to
take a request (40_cycle.md R75, R84). -/
abbrev State.Ready (s : State) : Prop :=
  s.halted = false ∧ s.fault = none ∧ s.top = .fetch ∧ s.micro = 0 ∧ s.dec = none ∧ s.ea = none ∧ s.nextPC = none ∧
    s.mstate.busy = false ∧ s.AluIdle

/-- A running machine whose fetch has just ended: at DECODE µ0 with no latches and both units idle (40_cycle.md R77). -/
abbrev State.Fetched (s : State) : Prop :=
  s.halted = false ∧ s.fault = none ∧ s.top = .decode ∧ s.micro = 0 ∧ s.dec = none ∧ s.ea = none ∧ s.nextPC = none ∧
    s.mstate = .none ∧ s.AluIdle

/-- The latch `dec` is empty exactly until DECODE µ0 has run (10_state.md R29). -/
abbrev State.LatchesAgree (s : State) : Prop :=
  (s.dec = none ↔ s.top = .fetch ∨ (s.top = .decode ∧ s.micro = 0))

/-- The control unit stands at a microstep that makes a memory request: FETCH µ0, DECODE µ1 of the two modes with
indirection, or E0 of LDR, STR, LDX, STX, AMR and SMR with the operands that reach the request (70_reset_and_hazards.md
R149; 40_cycle.md R74). -/
abbrev State.MakesRequest (s : State) : Prop :=
  (s.top = .fetch ∧ s.micro = 0) ∨
  (s.top = .decode ∧ s.micro = 1 ∧
    (s.dec.map (fun d => d.mode) = some .indexed ∨ s.dec.map (fun d => d.mode) = some .indexedOffset)) ∨
  (s.top = .execute ∧ s.micro = 0 ∧ s.ea.isSome = true ∧
    ((s.dec.bind fun d => mnemonicOf Config.opcodeMap d.opcode) ∈ [some Mnemonic.LDR, some .STR, some .AMR, some .SMR] ∨
      ((s.dec.bind fun d => mnemonicOf Config.opcodeMap d.opcode) ∈ [some Mnemonic.LDX, some .STX] ∧
        s.dec.map (fun d => d.fields.xfi) ≠ some 0)))

/-- What the two ticks of FETCH leave, for a PC that names a cell (40_cycle.md R76, R77). -/
def State.afterFetch (s : State) : State :=
  { s with
    cc := 0
    mar := s.pc
    mbr := s.mem.read (s.pc.toNat)
    ir := s.mem.read (s.pc.toNat)
    mstate := .none
    top := .decode
    micro := 0 }

/-- The read that DECODE makes in the two modes with indirection names a cell (30_encoding.md R58; 20_memory.md R43). -/
abbrev State.DecodeReadable (s : State) (f : Fields) : Prop := f.ibit = true → s.baseAddress f < 2048

/-- What DECODE leaves in MAR and MBR: the word it read, in the two modes with indirection (40_cycle.md R79, R80). -/
def State.afterDecode (s : State) (f : Fields) : State :=
  if f.ibit then
    { s with mar := BitVec.ofNat 13 (s.baseAddress f), mbr := s.mem.read (s.baseAddress f) }
  else s

/-- The latch `dec` of an instruction other than AIR and SIR (40_cycle.md R78). -/
def latched (i : Instr) : Decoded :=
  { opcode := Config.opcodeMap i.mnemonic, fields := i.fields, mode := eaMode i.fields }

/-- The state at EXECUTE µ0 of an instruction other than AIR and SIR, whose decode read named a cell (40_cycle.md R78 to
R80). -/
def State.atExecute (s : State) (i : Instr) : State :=
  { s.afterDecode i.fields with
    top := .execute, micro := 0, dec := some (latched i), ea := some (s.effectiveAddress i.fields) }

/-- Completion with PC at `p`, seen from a state without latches. -/
def State.backToFetch (s : State) (p : Addr) : State := { s with pc := p, top := .fetch, micro := 0 }

/-- PC + 1, which completion takes when no jump is taken (40_cycle.md R84). -/
def State.pcPlusOne (s : State) : Addr := BitVec.ofNat 13 (s.pc.toNat + 1)

/-- EXECUTE of a memory read whose address names no cell: the state in which the memory phase of E0 raises the fault
(20_memory.md R43). -/
def State.readPending (s : State) (ea : Nat) : State :=
  { s with micro := 1, mar := BitVec.ofNat 13 ea, mstate := .preFetch }

/-- EXECUTE of a memory write of `v` whose address names no cell, as above. -/
def State.writePending (s : State) (ea : Nat) (v : Word) : State :=
  { s with micro := 1, mar := BitVec.ofNat 13 ea, mbr := v, mstate := .preStore }

/-- SOB before its last microstep, E4: the ALU holds the difference and CC.OVF is written (44_control_transfer.md R118). -/
def State.sobDecided (s : State) (f : Fields) : State :=
  { s.atExecute (.sob f) with
    micro := 4, cc := ccWithOverflow s.cc (decide (s.reg f.r = 0x80000)), astate := .finished,
    result := some (s.reg f.r - 1) }

/-- The fault of a completion at PC 8191 without a jump (10_state.md R21; 60_exceptions.md R128). -/
def State.pastLastPc (s : State) : State := s.takeFault (.construction 13 8192) .controlUnit

/-- An instruction with its trace bit made `b`. -/
def setTrace (i : Instr) (b : Bool) : Instr := Instr.make i.mnemonic { i.fields with tbit := b }

/-- Decoded fields with the trace bit forgotten. -/
def Decoded.withoutTrace (d : Decoded) : Decoded := { d with fields := { d.fields with tbit := false } }

/-- A state with the trace bit of its latch and of its fault record forgotten. -/
def State.withoutTrace (s : State) : State :=
  { s with
    dec := s.dec.map Decoded.withoutTrace
    fault := s.fault.map fun r => { r with dec := r.dec.map Decoded.withoutTrace } }

/-- The control unit is about to fetch an instruction: at FETCH µ0 (40_cycle.md R84). -/
abbrev State.AtBoundary (s : State) : Prop := s.top = .fetch ∧ s.micro = 0

/-! ## How long an instruction takes -/

/-- The ticks of DECODE (40_cycle.md, table under R80). -/
def decodeTicks (i : Instr) : Nat :=
  if i.mnemonic = .AIR ∨ i.mnemonic = .SIR then 1
  else
    match eaMode i.fields with
    | .none | .direct => 1
    | .registerIndirect => 2
    | .indexed | .indexedOffset => 3

/-- The microsteps of EXECUTE (70_reset_and_hazards.md R151). -/
def executeMicrosteps : Mnemonic → Nat
  | .LDR | .STR | .LDA | .LDX | .STX => 2
  | .AMR | .SMR => 6
  | .AIR | .SIR | .SOB | .AND => 5
  | .HLT | .JZ | .JNE | .JCC | .JMP | .JSR | .RFS | .JGE | .SRC | .RRC | .TRR | .ORR | .NOT => 1

/-- The ticks of an instruction that neither stalls nor faults (40_cycle.md R85). -/
def instructionTicks (i : Instr) : Nat := 2 + decodeTicks i + executeMicrosteps i.mnemonic

/-! ## Invariants -/

/-- What every tick and every host action keeps: memory is in canonical form, CC.UNF and CC.DVZ are 0 (10_state.md R26),
MSR and MFR hold their construction values (R23, R24). -/
def State.basicInv (s : State) : Bool :=
  s.mem.wf && !ccBit s.cc ccUNF && !ccBit s.cc ccDVZ && decide (s.msr = Config.regReset.msr) &&
    decide (s.mfr = Config.regReset.mfr)

/-- The execute microstep at which an instruction begins to stage the ALU, if it uses it (40_cycle.md R83). -/
def aluOffset : Mnemonic → Option Nat
  | .AMR | .SMR => some 1
  | .AIR | .SIR | .SOB | .AND => some 0
  | .HLT | .LDR | .STR | .LDA | .LDX | .STX | .JZ | .JNE | .JCC | .JMP | .JSR | .RFS | .JGE | .SRC | .RRC | .TRR
  | .ORR | .NOT => none

/-- How far the ALU's staging has come before execute microstep µ: 0 idle, 1 to 3 inputs staged, 4 a result. -/
def aluStageAt (m : Mnemonic) (micro : Nat) : Nat :=
  match aluOffset m with
  | some k => micro - k
  | none => 0

/-- The ALU holds exactly what a stage of the staging leaves (41_alu.md R88 to R92); no DIVIDE is staged (R100). -/
def State.aluAtStage (s : State) (n : Nat) : Bool :=
  match n with
  | 0 => decide s.AluIdle
  | 1 => decide (s.astate = .none) && s.op1.isSome && s.op2.isNone && s.ctrl.isNone && s.result.isNone
  | 2 => decide (s.astate = .none) && s.op1.isSome && s.op2.isSome && s.ctrl.isNone && s.result.isNone
  | 3 =>
    decide (s.astate = .none) && s.op1.isSome && s.op2.isSome && s.ctrl.isSome && decide (s.ctrl ≠ some .divide) &&
      s.result.isNone
  | 4 => decide (s.astate = .finished) && s.op1.isNone && s.op2.isNone && s.ctrl.isNone && s.result.isSome
  | _ => false

/-- What the memory unit is doing at execute microstep µ when no host request intervenes (20_memory.md R44;
70_reset_and_hazards.md R149). -/
def memStateAt (m : Mnemonic) (micro : Nat) : MemState :=
  if micro = 1 then
    match m with
    | .LDR | .LDX | .AMR | .SMR => .fetch
    | .STR | .STX => .store
    | .HLT | .LDA | .AIR | .SIR | .JZ | .JNE | .JCC | .JMP | .JSR | .RFS | .SOB | .JGE | .SRC | .RRC | .TRR | .AND
    | .ORR | .NOT => .none
  else .none

/-- The latched fields are those of an instruction whose decode goes on past µ0 (40_cycle.md R78). -/
def Decoded.decodesOn (d : Decoded) : Bool :=
  decide (d.mode = eaMode d.fields) && decide (d.mode ≠ .direct) && decide (d.opcode ≠ Config.opcodeMap .AIR) &&
    decide (d.opcode ≠ Config.opcodeMap .SIR)

/-- The control unit, the latches and the two units are as they can be before a microstep of a run without host requests
(40_cycle.md R76 to R84; the microsequences of files 42 to 45). -/
def State.controlUnitLegal (s : State) : Bool :=
  match s.top with
  | .fetch =>
    s.dec.isNone && s.ea.isNone && s.aluAtStage 0 &&
      ((decide (s.micro = 0) && decide (s.mstate = .none)) ||
        (decide (s.micro = 1) && decide (s.mstate = .fetch) && inRange (s.pc.toNat)))
  | .decode =>
    s.ea.isNone && s.aluAtStage 0 && inRange (s.pc.toNat) &&
      (match s.dec with
      | none => decide (s.micro = 0) && decide (s.mstate = .none)
      | some d =>
        d.decodesOn &&
          ((decide (s.micro = 1) && decide (s.mstate = .none)) ||
            (decide (s.micro = 2) && decide (s.mstate = .fetch) && d.fields.ibit)))
  | .execute =>
    inRange (s.pc.toNat) &&
      (match s.dec with
      | none => false
      | some d =>
        (match s.ea with
        | some ea => decide (ea < 2 ^ 20)
        | none => decide (d.opcode = Config.opcodeMap .AIR) || decide (d.opcode = Config.opcodeMap .SIR)) &&
        (match mnemonicOf Config.opcodeMap d.opcode with
        | none => decide (s.micro = 0) && decide (s.mstate = .none) && s.aluAtStage 0
        | some m =>
          decide (s.micro < executeMicrosteps m) && decide (s.mstate = memStateAt m s.micro) &&
            s.aluAtStage (aluStageAt m s.micro)))

/-- The invariant of runs without host requests: the basic invariant, no pending jump between ticks, never both halted and
faulted, and a legal control unit unless a fault has ended the run. -/
def State.runInv (s : State) : Bool :=
  s.basicInv && s.nextPC.isNone && !(s.halted && s.fault.isSome) && (s.fault.isSome || s.controlUnitLegal)

end Sys2Proof.Machine
end

