-- ==== Sys2Proof/Certificates/Slice0/Obligations.lean ====
section
/-!
DEFINITION. The statements for the provers, grouped as in OBLIGATIONS.json. Where a statement says what an instruction does,
it gives the WHOLE next state, as an update of the state the instruction starts from: every field it does not name is
unchanged. The instruction starts at DECODE µ0 (`State.Fetched`), after its fetch; `StepRunsTheDecodedInstruction` adds
the fetch.
-/

open Sys2Proof Sys2Proof.Machine

/-! ## Encoding -/

/-- Decoding and encoding agree: decoding the word of a well-formed instruction gives that instruction, with every operand
value, and each word that decodes is the word of what it decodes to (30_encoding.md R56, R57, R63, R66; the opcode numbers
and operand fields are log entries 4 and 5). -/
def Obligations.DecodeAndEncodeAgree : Prop :=
  (∀ i : Instr, i.WellFormed → decode (encode i) = .ok i) ∧
  ∀ (w : Word) (i : Instr), decode w = .ok i → encode i = w

/-- Field extraction by division (30_encoding.md R57), with its converse. The converse is the spec's own inference from
R56. -/
def Obligations.FieldExtractionIsByDivision : Prop :=
  ∀ w : Word,
    (opcodeField w).toNat = w.toNat / 2 ^ 14 ∧
    (fieldsOf w).rfi.val = w.toNat / 2 ^ 12 % 4 ∧
    (fieldsOf w).xfi.val = w.toNat / 2 ^ 10 % 4 ∧
    (fieldsOf w).ibit.toNat = w.toNat / 2 ^ 9 % 2 ∧
    (fieldsOf w).tbit.toNat = w.toNat / 2 ^ 8 % 2 ∧
    (fieldsOf w).addr.toNat = w.toNat % 2 ^ 8 ∧
    w.toNat = (opcodeField w).toNat * 2 ^ 14 + (fieldsOf w).rfi.val * 2 ^ 12 + (fieldsOf w).xfi.val * 2 ^ 10 +
      (fieldsOf w).ibit.toNat * 2 ^ 9 + (fieldsOf w).tbit.toNat * 2 ^ 8 + (fieldsOf w).addr.toNat

/-- Words of 95_test_vectors.md decode to the instructions written beside them. Opcode numbers and operand fields are
decisions D14 and D15 of the spec (log entries 4 and 5). -/
def Obligations.SpecWordsDecodeToTheirInstructions : Prop :=
  decode 0x00605 = .ok (.hlt { rfi := 0, xfi := 1, ibit := true, tbit := false, addr := 5 }) ∧
  decode 0x07A05 = .ok (.ldr { rfi := 3, xfi := 2, ibit := true, tbit := false, addr := 5 }) ∧
  decode 0x0510A = .ok (.ldr { rfi := 1, xfi := 0, ibit := false, tbit := true, addr := 10 }) ∧
  decode 0x88C3C = .ok (.stx { rfi := 0, xfi := 3, ibit := false, tbit := false, addr := 60 }) ∧
  decode 0x19E05 = .ok (.air { rfi := 1, xfi := 3, ibit := true, tbit := false, addr := 5 }) ∧
  decode 0x2B032 = .ok (.jcc { rfi := 3, xfi := 0, ibit := false, tbit := false, addr := 50 }) ∧
  decode 0x66C01 = .ok (.src { rfi := 2, xfi := 3, ibit := false, tbit := false, addr := 1 }) ∧
  decode 0x49800 = .ok (.trr { rfi := 1, xfi := 2, ibit := false, tbit := false, addr := 0 }) ∧
  decode 0xFC205 = .error (.unhandledOpcode 63)

/-! ## BitUnit values -/

/-- Construction accepts exactly sizes 1 to 32 with integers in the legal range, and truncates (10_state.md R12, R13). -/
def Obligations.ConstructionAcceptsExactlyTheLegalRange : Prop :=
  ∀ (size : Nat) (n : Int),
    newBitUnit size n =
      if 1 ≤ size ∧ size ≤ 32 ∧ -(2 ^ (size - 1) - 1) ≤ n ∧ n ≤ 2 ^ size - 1 then .ok (BitVec.ofInt size n)
      else .error (.construction size n)

/-- What a constructed integer reads back as (10_state.md R14). -/
def Obligations.ConstructedValuesReadBack : Prop :=
  ∀ (w : Nat) (n : Int), 1 ≤ w → w ≤ 32 →
    (-(2 ^ (w - 1) - 1) ≤ n → n ≤ 2 ^ (w - 1) - 1 → ∃ p, construct w n = .ok p ∧ p.toInt = n) ∧
    (2 ^ (w - 1) ≤ n → n ≤ 2 ^ w - 1 → ∃ p, construct w n = .ok p ∧ (p.toNat : Int) = n ∧ p.toInt = n - 2 ^ w)

/-- Binary strings (10_state.md R15): serialisation, sign-extending construction, its failures, and the round trip; slices,
counted from the most significant end with both ends inclusive (R16). The failures are decision D3 of the spec; what they
carry is the model's own (log entry 17) and not stated. -/
def Obligations.StringsAndSlicesReadMostSignificantBitFirst : Prop :=
  (∀ w : Nat, 1 ≤ w → w ≤ 32 →
    (∀ p : BitVec w, (toBinaryString p).length = w ∧
      (∀ i, i < w → (toBinaryString p)[i]? = some (if p.getMsbD i then '1' else '0')) ∧
      fromBinaryString w (toBinaryString p) = .ok p) ∧
    (∀ s : List Char, 1 ≤ s.length → s.length ≤ w → (∀ c ∈ s, c = '0' ∨ c = '1') →
      ∃ p, fromBinaryString w s = .ok p ∧
        (∀ i, i < w - s.length → p.getMsbD i = decide (s[0]? = some '1')) ∧
        (∀ i, i < s.length → p.getMsbD (w - s.length + i) = decide (s[i]? = some '1'))) ∧
    (∀ s : List Char, s = [] ∨ w < s.length ∨ (∃ c ∈ s, c ≠ '0' ∧ c ≠ '1') →
      ∃ e, fromBinaryString w s = .error e)) ∧
  ∀ (w : Nat) (p : BitVec w) (a b : Nat),
    (a ≤ b → b < w → ∃ q, decomposeByOffset p a b = .ok q ∧ ∀ i, i ≤ b - a → q.getMsbD i = p.getMsbD (a + i)) ∧
    (¬(a ≤ b ∧ b < w) → ∃ e, decomposeByOffset p a b = .error e) ∧
    (a < w → ∃ q, decomposeByIndex p a = .ok q ∧ q.getMsbD 0 = p.getMsbD a) ∧
    (w ≤ a → ∃ e, decomposeByIndex p a = .error e)

/-- The three shifts as integer formulas, with their results for counts of the width or more (10_state.md R17), and rotation,
which moves each bit, loses none, and is the identity by the width (R18). Counts of the width or more are decision D4 of
the spec. -/
def Obligations.ShiftsAndRotationsFollowTheirFormulas : Prop :=
  (∀ (w : Nat) (p : BitVec w) (n : Nat) (m : ShiftMode), 0 < w →
    shift p n .left m = BitVec.ofNat w (p.toNat * 2 ^ n) ∧
    (shift p n .right .logical).toNat = p.toNat / 2 ^ n ∧
    shift p n .right .arithmetic = BitVec.ofInt w (p.toInt / 2 ^ n) ∧
    (w ≤ n → shift p n .left m = 0 ∧ shift p n .right .logical = 0 ∧
      shift p n .right .arithmetic = if p.msb then BitVec.allOnes w else 0)) ∧
  ∀ (w : Nat) (p : BitVec w) (n i : Nat), i < w →
    (rotate p n .left).getMsbD i = p.getMsbD ((i + n) % w) ∧
    (rotate p n .right).getMsbD ((i + n) % w) = p.getMsbD i ∧
    rotate p w .left = p ∧ rotate p w .right = p

/-! ## The ALU -/

/-- ADD (41_alu.md R94): the wrap-around sum, signed overflow by the sign bits and by range, and CC.OVF alone written.
The signed reading of overflow is decision D28 of the spec. -/
def Obligations.AddGivesTheSumAndSignedOverflow : Prop :=
  (∀ (w : Nat) (a b : BitVec w), 0 < w →
    ∃ ovf, aluCompute .add a b = .ok (BitVec.ofNat w (a.toNat + b.toNat), some ovf) ∧
      (ovf = true ↔ a.msb = b.msb ∧ (BitVec.ofNat w (a.toNat + b.toNat)).msb ≠ a.msb) ∧
      (ovf = true ↔ a.toInt + b.toInt < -(2 ^ (w - 1)) ∨ 2 ^ (w - 1) - 1 < a.toInt + b.toInt)) ∧
  ∀ (s : State) (a b : Word), s.astate = .startComputation → s.op1 = some a → s.op2 = some b → s.ctrl = some .add →
    ∃ t, aluPhase s = .done t ∧ t.result = some (BitVec.ofNat 20 (a.toNat + b.toNat)) ∧
      ccBit t.cc ccOVF = addOverflow a b (BitVec.ofNat 20 (a.toNat + b.toNat)) ∧
      ∀ i, i ≠ ccOVF → ccBit t.cc i = ccBit s.cc i

/-- SUBTRACT (41_alu.md R95): the wrap-around difference op1 − op2, signed overflow, CC.OVF alone written, and the round
trip with ADD. The signed reading of overflow is decision D28 of the spec. -/
def Obligations.SubtractGivesTheDifferenceAndSignedOverflow : Prop :=
  (∀ (w : Nat) (a b : BitVec w), 0 < w →
    ∃ ovf, aluCompute .subtract a b = .ok (BitVec.ofInt w ((a.toNat : Int) - b.toNat), some ovf) ∧
      BitVec.ofInt w ((a.toNat : Int) - b.toNat) = BitVec.ofNat w (a.toNat + (~~~b).toNat + 1) ∧
      (ovf = true ↔ a.msb ≠ b.msb ∧ (BitVec.ofInt w ((a.toNat : Int) - b.toNat)).msb ≠ a.msb) ∧
      (ovf = true ↔ a.toInt - b.toInt < -(2 ^ (w - 1)) ∨ 2 ^ (w - 1) - 1 < a.toInt - b.toInt) ∧
      aluSubtract (aluAdd a b) b = a) ∧
  ∀ (s : State) (a b : Word), s.astate = .startComputation → s.op1 = some a → s.op2 = some b →
    s.ctrl = some .subtract →
    ∃ t, aluPhase s = .done t ∧ t.result = some (BitVec.ofInt 20 ((a.toNat : Int) - b.toNat)) ∧
      ccBit t.cc ccOVF = subOverflow a b (BitVec.ofInt 20 ((a.toNat : Int) - b.toNat)) ∧
      ∀ i, i ≠ ccOVF → ccBit t.cc i = ccBit s.cc i

/-- AND and the OR helper are bitwise, for every pair of patterns; a computed AND leaves CC as it was (41_alu.md R96,
R97). -/
def Obligations.AndAndOrHelperAreBitwise : Prop :=
  (∀ (w : Nat) (a b : BitVec w),
    (∃ r, aluCompute .and a b = .ok (r, none) ∧ ∀ i, r.getMsbD i = (a.getMsbD i && b.getMsbD i)) ∧
    ∀ i, (orHelper a b).getMsbD i = (a.getMsbD i || b.getMsbD i)) ∧
  ∀ (s : State) (a b : Word), s.astate = .startComputation → s.op1 = some a → s.op2 = some b → s.ctrl = some .and →
    ∃ t, aluPhase s = .done t ∧ (∃ r, t.result = some r ∧ ∀ i, r.getMsbD i = (a.getMsbD i && b.getMsbD i)) ∧ t.cc = s.cc

/-- MULTIPLY and DIVIDE on signed values, writing no flag; a zero divisor raises DivisionByZeroError (41_alu.md R98, R99;
the kept low bits and the rounding toward zero are decision D29 of the spec). -/
def Obligations.MultiplyAndDivideAreSignedAndWriteNoFlag : Prop :=
  ∀ (w : Nat) (a b : BitVec w), 0 < w →
    (∃ r, aluCompute .multiply a b = .ok (r, none) ∧ r.toNat = (a.toInt * b.toInt) % 2 ^ w) ∧
    (b.toNat = 0 → aluCompute .divide a b = .error .divisionByZero) ∧
    (b.toNat ≠ 0 → ∃ r, aluCompute .divide a b = .ok (r, none) ∧ r.toNat = (Int.tdiv a.toInt b.toInt) % 2 ^ w)

/-- One cycle of the ALU (41_alu.md R90). The step from FINISHED to NONE is decision D26 of the spec. -/
def Obligations.AluPhaseMakesOneTransition : Prop :=
  ∀ s : State,
    (s.astate = .startComputation → s.op1 = none ∨ s.op2 = none ∨ s.ctrl = none →
      aluPhase s = .raise (.aluProtocol .missingInput)) ∧
    (∀ a b c, s.astate = .startComputation → s.op1 = some a → s.op2 = some b → s.ctrl = some c →
      (∀ e, aluCompute c a b = .error e → aluPhase s = .raise e) ∧
      ∀ r ovf, aluCompute c a b = .ok (r, ovf) →
        aluPhase s = .done { s with
          result := some r, astate := .finished, op1 := none, op2 := none, ctrl := none,
          cc := ovf.elim s.cc fun b => ccWithOverflow s.cc b }) ∧
    (s.astate = .finished → aluPhase s = .done { s with astate := .none, result := none }) ∧
    (s.astate = .none → aluPhase s = .done s)

/-- A computation signalled in one tick is readable in the next and in no later one (41_alu.md R88 to R92). An inference
of the spec (R92) over its decision D26. -/
def Obligations.ResultIsReadableForOneTick : Prop :=
  ∀ (s : State) (a b r : Word) (c : AluControl) (ovf : Option Bool), s.AluIdle → aluCompute c a b = .ok (r, ovf) →
    ∃ t u, aluPhase (((s.setOperand1 a).setOperand2 b).setControl c).signalReady = .done t ∧
      (∀ k, t.withResult k = k r) ∧ t.op1 = none ∧ t.op2 = none ∧ t.ctrl = none ∧
      aluPhase t = .done u ∧ (∀ k, u.withResult k = .raise (.aluProtocol .resultNotFinished)) ∧ u.AluIdle

/-! ## The memory unit -/

/-- `setMBR` (20_memory.md R36): refused with no change while FETCH or STORE; otherwise MBR is written and the unit goes to
PRE_STORE. -/
def Obligations.WriteRequestsObeyTheBusyRule : Prop :=
  ∀ (s : State) (p : Word),
    (s.mstate = .fetch ∨ s.mstate = .store → s.setMBR p = .refused) ∧
    (s.mstate = .none ∨ s.mstate = .preFetch ∨ s.mstate = .preStore →
      s.setMBR p = .accepted { s with mbr := p, mstate := .preStore })

/-- A pending read or write is performed in the memory phase of its tick (20_memory.md R40, R41), or, for an address from
2048 on, raises AddressOutOfRangeError there with memory, MBR and the unit's state unchanged, which stops the run (R43). -/
def Obligations.PendingAccessesArePerformedOrFault : Prop :=
  ∀ s s1 s2 : State, s.stopped = false → controlUnitPhase s = .done s1 → aluPhase s1 = .done s2 →
    (s2.mstate = .preFetch → s2.mar.toNat < 2048 →
      tick s = .next { s2 with mbr := s2.mem.read s2.mar.toNat, mstate := .fetch }) ∧
    (s2.mstate = .preStore → s2.mar.toNat < 2048 → s2.mem.wf = true →
      ∃ t, tick s = .next t ∧ { t with mem := s2.mem } = { s2 with mstate := .store } ∧
        t.mem.read s2.mar.toNat = s2.mbr ∧ ∀ a, a ≠ s2.mar.toNat → t.mem.read a = s2.mem.read a) ∧
    (s2.mstate = .preFetch ∨ s2.mstate = .preStore → 2048 ≤ s2.mar.toNat →
      ∃ t, tick s = .next t ∧ t.fault.map (fun r => (r.kind, r.phase)) = some (.addressOutOfRange s2.mar.toNat, .memory) ∧
        { t with fault := s2.fault } = s2 ∧ tick t = .next t)

/-- `setMAR` tests the busy rule before the address (20_memory.md R35, decision D9 of the spec); an accepted request is
served in the memory phase of its tick and the unit is busy for exactly one more (R39, R42, R44); a store is `setMAR` then
`setMBR`, and in the reverse order the pending store becomes a read that overwrites MBR (R38). -/
def Obligations.RequestsAreServedInOneTickAndBusyForOneMore : Prop :=
  ∀ (s : State) (a : Nat) (p : Word),
    (s.mstate.busy = true → s.setMAR a = .refused ∧ memoryPhase s = .done { s with mstate := .none }) ∧
    (s.mstate = .none → memoryPhase s = .done s) ∧
    (s.mstate.busy = false → 8191 < a → s.setMAR a = .failed (.construction 13 a)) ∧
    (s.mstate.busy = false → a < 2048 →
      (∃ t u, s.setMAR a = .accepted t ∧ memoryPhase t = .done u ∧
        u = { s with mar := BitVec.ofNat 13 a, mbr := s.mem.read a, mstate := .fetch } ∧
        memoryPhase u = .done { u with mstate := .none }) ∧
      (∃ t u v, s.setMAR a = .accepted t ∧ t.setMBR p = .accepted u ∧ u.mstate = .preStore ∧ memoryPhase u = .done v ∧
        v = { s with mar := BitVec.ofNat 13 a, mbr := p, mem := s.mem.write a p, mstate := .store } ∧
        memoryPhase v = .done { v with mstate := .none }) ∧
      (∃ t u v, s.setMBR p = .accepted t ∧ t.setMAR a = .accepted u ∧ u.mstate = .preFetch ∧ memoryPhase u = .done v ∧
        v.mem = s.mem ∧ v.mbr = s.mem.read a))

/-- A microstep that makes a request while the memory unit is busy performs none of its actions and runs again in the next
tick, when the unit is free (20_memory.md R37; 40_cycle.md R74). -/
def Obligations.BusyMicrostepsStall : Prop :=
  ∀ s : State, s.stopped = false → s.mstate.busy = true → s.MakesRequest →
    controlUnitPhase s = .done s ∧ (s.AluIdle → tick s = .next { s with mstate := .none })

/-! ## Fetch and decode -/

/-- The two microsteps of FETCH (40_cycle.md R76, R77): the stall, the request with CC cleared, the fault of a PC that names
no cell in that tick's memory phase, and the move of MBR to IR. -/
def Obligations.FetchFollowsItsTwoMicrosteps : Prop :=
  ∀ s : State, s.top = .fetch →
    (s.micro = 0 → s.mstate = .fetch ∨ s.mstate = .store → controlUnitPhase s = .done s) ∧
    (s.micro = 0 → s.mstate.busy = false →
      controlUnitPhase s = .done { s with cc := 0, mar := s.pc, mstate := .preFetch, micro := 1 } ∧
      (s.stopped = false → s.astate = .none → 2048 ≤ s.pc.toNat →
        tick s = .next (State.takeFault { s with cc := 0, mar := s.pc, mstate := .preFetch, micro := 1 }
          (.addressOutOfRange s.pc.toNat) .memory))) ∧
    (s.micro = 1 → controlUnitPhase s = .done { s with ir := s.mbr, top := .decode, micro := 0 })

/-- The microsteps of DECODE: the latched fields and the four modes (40_cycle.md R78), the address of each mode and its read
with its faults (R79), and the word read as the address (R80). -/
def Obligations.DecodeFollowsItsMicrosteps : Prop :=
  ∀ (s : State) (op : BitVec 6) (f : Fields), s.top = .decode →
    (s.micro = 0 → opcodeField s.ir = op → fieldsOf s.ir = f →
      (op = Config.opcodeMap .AIR ∨ op = Config.opcodeMap .SIR →
        controlUnitPhase s = .done { s with dec := some ⟨op, f, .none⟩, ea := none, top := .execute, micro := 0 }) ∧
      (op ≠ Config.opcodeMap .AIR → op ≠ Config.opcodeMap .SIR →
        (f.ibit = false → f.xfi = 0 → controlUnitPhase s =
          .done { s with dec := some ⟨op, f, .direct⟩, ea := some f.addr.toNat, top := .execute, micro := 0 }) ∧
        (f.ibit = false → f.xfi ≠ 0 →
          controlUnitPhase s = .done { s with dec := some ⟨op, f, .registerIndirect⟩, micro := 1 }) ∧
        (f.ibit = true → f.xfi = 0 → controlUnitPhase s = .done { s with dec := some ⟨op, f, .indexed⟩, micro := 1 }) ∧
        (f.ibit = true → f.xfi ≠ 0 →
          controlUnitPhase s = .done { s with dec := some ⟨op, f, .indexedOffset⟩, micro := 1 }))) ∧
    (s.micro = 1 → s.dec = some ⟨op, f, .registerIndirect⟩ → ∀ x, s.index.get f.xfi = some x →
      controlUnitPhase s = .done { s with ea := some (x.toNat + f.addr.toNat), top := .execute, micro := 0 }) ∧
    (s.micro = 1 → s.dec = some ⟨op, f, .indexed⟩ →
      (s.mstate = .fetch ∨ s.mstate = .store → controlUnitPhase s = .done s) ∧
      (s.mstate.busy = false →
        controlUnitPhase s = .done { s with mar := BitVec.ofNat 13 f.addr.toNat, mstate := .preFetch, micro := 2 })) ∧
    (s.micro = 1 → s.dec = some ⟨op, f, .indexedOffset⟩ → ∀ x b, s.index.get f.xfi = some x →
      x.toNat + f.addr.toNat = b →
      (s.mstate = .fetch ∨ s.mstate = .store → controlUnitPhase s = .done s) ∧
      (s.mstate.busy = false → b ≤ 8191 →
        controlUnitPhase s = .done { s with mar := BitVec.ofNat 13 b, mstate := .preFetch, micro := 2 }) ∧
      (s.mstate.busy = false → s.stopped = false → s.astate = .none → 2048 ≤ b → b ≤ 8191 →
        tick s = .next (State.takeFault { s with mar := BitVec.ofNat 13 b, mstate := .preFetch, micro := 2 }
          (.addressOutOfRange b) .memory)) ∧
      (s.mstate.busy = false → 8191 < b → controlUnitPhase s = .raise (.construction 13 b))) ∧
    (s.micro = 2 → s.dec = some ⟨op, f, .indexed⟩ ∨ s.dec = some ⟨op, f, .indexedOffset⟩ →
      controlUnitPhase s = .done { s with ea := some s.mbr.toNat, top := .execute, micro := 0 })

/-! ## Loads, stores and halt -/

/-- HLT (42_halt_load_store.md R101): halted, at EXECUTE µ0, with PC still at the HLT. PC keeping the HLT's address is
decision D22 of the spec. -/
def Obligations.HltHaltsWithoutCompleting : Prop :=
  ∀ (f : Fields) (s : State), s.Fetched → s.DecodeReadable f →
    exec (.hlt f) s = .next { s.atExecute (.hlt f) with halted := true }

/-- LDR (R102): R[r] ← M[ea]. The operand fields are decision D15 of the spec (log entry 5). -/
def Obligations.LdrLoadsTheRegister : Prop :=
  ∀ (f : Fields) (s : State) (ea : Nat), s.Fetched → s.DecodeReadable f → s.effectiveAddress f = ea → ea < 2048 →
    s.pc.toNat < 8191 →
    exec (.ldr f) s =
      .next { (s.afterDecode f).backToFetch s.pcPlusOne with
        regs := s.regs.set f.r (s.mem.read ea), mar := BitVec.ofNat 13 ea, mbr := s.mem.read ea }

/-- STR (R103): M[ea] ← R[r], and no other cell changes. The operand fields are decision D15 of the spec (log entry 5).
-/
def Obligations.StrStoresTheRegister : Prop :=
  ∀ (f : Fields) (s : State) (ea : Nat), s.Fetched → s.DecodeReadable f → s.effectiveAddress f = ea → ea < 2048 →
    s.pc.toNat < 8191 → s.mem.wf = true →
    ∃ t, exec (.str f) s = .next t ∧
      t = { (s.afterDecode f).backToFetch s.pcPlusOne with
        mem := s.mem.write ea (s.reg f.r), mar := BitVec.ofNat 13 ea, mbr := s.reg f.r } ∧
      t.mem.read ea = s.reg f.r ∧ ∀ a, a ≠ ea → t.mem.read a = s.mem.read a

/-- LDA (R104): R[r] ← ea, whatever the address. The operand fields are decision D15 of the spec (log entry 5). -/
def Obligations.LdaLoadsTheAddress : Prop :=
  ∀ (f : Fields) (s : State) (ea : Nat), s.Fetched → s.DecodeReadable f → s.effectiveAddress f = ea →
    s.pc.toNat < 8191 →
    exec (.lda f) s =
      .next { (s.afterDecode f).backToFetch s.pcPlusOne with regs := s.regs.set f.r (BitVec.ofNat 20 ea) }

/-- LDX (R105): X[x] ← M[ea], for x from 1 to 3 and a word that fits 13 bits. The field of the index register and the
width check are decisions D5 and D30 of the spec. -/
def Obligations.LdxLoadsTheIndexRegister : Prop :=
  ∀ (f : Fields) (s : State) (ea : Nat), s.Fetched → s.DecodeReadable f → f.xfi ≠ 0 → s.effectiveAddress f = ea →
    ea < 2048 → (s.mem.read ea).toNat ≤ 8191 → s.pc.toNat < 8191 →
    exec (.ldx f) s =
      .next { (s.afterDecode f).backToFetch s.pcPlusOne with
        index := s.index.set f.xfi (BitVec.ofNat 13 (s.mem.read ea).toNat), mar := BitVec.ofNat 13 ea,
        mbr := s.mem.read ea }

/-- STX (R106): M[ea] ← zext_20(X[x]), for x from 1 to 3, and no other cell changes. The field of the index register is
decision D5 of the spec. -/
def Obligations.StxStoresTheIndexRegister : Prop :=
  ∀ (f : Fields) (s : State) (ea : Nat) (x : Addr), s.Fetched → s.DecodeReadable f → s.index.get f.xfi = some x →
    s.effectiveAddress f = ea → ea < 2048 → s.pc.toNat < 8191 → s.mem.wf = true →
    ∃ t, exec (.stx f) s = .next t ∧
      t = { (s.afterDecode f).backToFetch s.pcPlusOne with
        mem := s.mem.write ea (x.setWidth 20), mar := BitVec.ofNat 13 ea, mbr := x.setWidth 20 } ∧
      (t.mem.read ea).toNat = x.toNat ∧ ∀ a, a ≠ ea → t.mem.read a = s.mem.read a

/-! ## Arithmetic -/

/-- AMR (43_arithmetic.md R107): R[r] ← M[ea] + R[r], CC.OVF by ADD. The operand fields are decision D15 of the spec
(log entry 5). -/
def Obligations.AmrAddsMemoryToTheRegister : Prop :=
  ∀ (f : Fields) (s : State) (ea : Nat) (m : Word), s.Fetched → s.DecodeReadable f → s.effectiveAddress f = ea →
    ea < 2048 → s.mem.read ea = m → s.pc.toNat < 8191 →
    exec (.amr f) s =
      .next { (s.afterDecode f).backToFetch s.pcPlusOne with
        regs := s.regs.set f.r (m + s.reg f.r), cc := ccWithOverflow s.cc (addOverflow m (s.reg f.r) (m + s.reg f.r)),
        mar := BitVec.ofNat 13 ea, mbr := m }

/-- SMR (43_arithmetic.md R108): R[r] ← M[ea] − R[r] as configured, and R[r] − M[ea] under the other `SMR_ORDER`. The
default order is decision D31 of the spec (log entry 7). -/
def Obligations.SmrSubtractsInTheConfiguredOrder : Prop :=
  ∀ (f : Fields) (s : State) (ea : Nat) (m : Word), s.Fetched → s.DecodeReadable f → s.effectiveAddress f = ea →
    ea < 2048 → s.mem.read ea = m → s.pc.toNat < 8191 →
    exec (.smr f) s =
      .next { (s.afterDecode f).backToFetch s.pcPlusOne with
        regs := s.regs.set f.r (m - s.reg f.r), cc := ccWithOverflow s.cc (subOverflow m (s.reg f.r) (m - s.reg f.r)),
        mar := BitVec.ofNat 13 ea, mbr := m } ∧
    runInstruction (Config.opcodeMap .SMR) f (smrMicrostep .regMinusMem f) s =
      .next { (s.afterDecode f).backToFetch s.pcPlusOne with
        regs := s.regs.set f.r (s.reg f.r - m), cc := ccWithOverflow s.cc (subOverflow (s.reg f.r) m (s.reg f.r - m)),
        mar := BitVec.ofNat 13 ea, mbr := m }

/-- AIR and SIR (43_arithmetic.md R109, R110): R[r] ± the zero-extended immediate, CC.OVF by the ALU; no memory access,
whatever the index field and the indirect bit hold (30_encoding.md R59). The zero extension is decision D16 of the spec
(log entry 6). -/
def Obligations.ImmediateArithmeticUsesTheAddressField : Prop :=
  ∀ (f : Fields) (s : State) (imm : Word), s.Fetched → f.addr.setWidth 20 = imm → s.pc.toNat < 8191 →
    exec (.air f) s =
      .next { s.backToFetch s.pcPlusOne with
        regs := s.regs.set f.r (s.reg f.r + imm),
        cc := ccWithOverflow s.cc (addOverflow (s.reg f.r) imm (s.reg f.r + imm)) } ∧
    exec (.sir f) s =
      .next { s.backToFetch s.pcPlusOne with
        regs := s.regs.set f.r (s.reg f.r - imm),
        cc := ccWithOverflow s.cc (subOverflow (s.reg f.r) imm (s.reg f.r - imm)) }

/-! ## Control transfer -/

/-- JZ, JNE, JCC and JGE (44_control_transfer.md R112, R113, R114, R119): PC ← ea when the test holds, else PC + 1; a
target is tested only when the transfer is taken (R111). The tests of JZ and JNE are the spec's from general knowledge;
the operand fields are decision D15 of the spec (log entry 5). -/
def Obligations.ConditionalJumpsTestTheRegisterOrFlag : Prop :=
  ∀ (f : Fields) (s : State) (ea : Nat), s.Fetched → s.DecodeReadable f → s.effectiveAddress f = ea →
    (∀ (i : Instr) (taken : Bool), (i, taken) ∈
        [(Instr.jz f, decide (s.reg f.r = 0)), (.jne f, decide (s.reg f.r ≠ 0)), (.jcc f, ccBit s.cc f.cc),
          (.jge f, decide (0 ≤ (s.reg f.r).toInt))] →
      (taken = true → ea ≤ 8191 → exec i s = .next ((s.afterDecode f).backToFetch (BitVec.ofNat 13 ea))) ∧
      (taken = false → s.pc.toNat < 8191 → exec i s = .next ((s.afterDecode f).backToFetch s.pcPlusOne)))

/-- JMP (44_control_transfer.md R115): PC ← ea. The operand fields are decision D15 of the spec (log entry 5). -/
def Obligations.JmpGoesToTheAddress : Prop :=
  ∀ (f : Fields) (s : State) (ea : Nat), s.Fetched → s.DecodeReadable f → s.effectiveAddress f = ea → ea ≤ 8191 →
    exec (.jmp f) s = .next ((s.afterDecode f).backToFetch (BitVec.ofNat 13 ea))

/-- JSR (44_control_transfer.md R116): R3 ← PC + 1; PC ← ea; and the same for any other `LINK_REG`. R3 is decision D32
of the spec (log entry 8). -/
def Obligations.JsrSavesTheReturnAddress : Prop :=
  ∀ (f : Fields) (s : State) (ea : Nat), s.Fetched → s.DecodeReadable f → s.effectiveAddress f = ea → ea ≤ 8191 →
    exec (.jsr f) s =
      .next { (s.afterDecode f).backToFetch (BitVec.ofNat 13 ea) with
        regs := s.regs.set 3 (BitVec.ofNat 20 (s.pc.toNat + 1)) } ∧
    ∀ link : Fin 4, runInstruction (Config.opcodeMap .JSR) f (jsrMicrostep link) s =
      .next { (s.afterDecode f).backToFetch (BitVec.ofNat 13 ea) with
        regs := s.regs.set link (BitVec.ofNat 20 (s.pc.toNat + 1)) }

/-- RFS (44_control_transfer.md R117): R0 ← immed; PC ← R3; and for the other values of `LINK_REG` and `RFS_WRITES_R0`.
The defaults are decisions D32 and D33 of the spec (log entry 8). -/
def Obligations.RfsReturnsThroughTheLinkRegister : Prop :=
  ∀ (f : Fields) (s : State), s.Fetched → s.DecodeReadable f →
    ((s.reg 3).toNat ≤ 8191 →
      exec (.rfs f) s =
        .next { (s.afterDecode f).backToFetch (BitVec.ofNat 13 (s.reg 3).toNat) with
          regs := s.regs.set 0 (f.addr.setWidth 20) }) ∧
    ∀ (link : Fin 4) (writesR0 : Bool), (s.reg link).toNat ≤ 8191 →
      runInstruction (Config.opcodeMap .RFS) f (rfsMicrostep link writesR0 .zero f) s =
        .next { (s.afterDecode f).backToFetch (BitVec.ofNat 13 (s.reg link).toNat) with
          regs := if writesR0 then s.regs.set 0 (f.addr.setWidth 20) else s.regs }

/-- SOB (44_control_transfer.md R118): R[r] ← R[r] − 1; PC ← ea when the signed difference is > 0, else PC + 1; CC.OVF
set only from R[r] = 0x80000. The operand fields are decision D15 of the spec (log entry 5). -/
def Obligations.SobDecrementsAndBranchesWhilePositive : Prop :=
  ∀ (f : Fields) (s : State) (ea : Nat) (v : Word), s.Fetched → s.DecodeReadable f → s.effectiveAddress f = ea →
    s.reg f.r - 1 = v →
    (0 < v.toInt → ea ≤ 8191 →
      exec (.sob f) s =
        .next { (s.afterDecode f).backToFetch (BitVec.ofNat 13 ea) with
          regs := s.regs.set f.r v, cc := ccWithOverflow s.cc (decide (s.reg f.r = 0x80000)) }) ∧
    (v.toInt ≤ 0 → s.pc.toNat < 8191 →
      exec (.sob f) s =
        .next { (s.afterDecode f).backToFetch s.pcPlusOne with
          regs := s.regs.set f.r v, cc := ccWithOverflow s.cc (decide (s.reg f.r = 0x80000)) })

/-! ## Shifts and logic -/

/-- SRC and RRC (45_shift_logical.md R120, R121): direction from the low bit of xfi (1 left), mode from its high bit (1
logical), count from the address field. The operand fields are decision D15 of the spec (log entry 5). -/
def Obligations.ShiftAndRotateTheRegister : Prop :=
  ∀ (f : Fields) (s : State) (dir : Direction) (mode : ShiftMode), s.Fetched → s.DecodeReadable f → s.pc.toNat < 8191 →
    (dir = .left ↔ f.xfi.val % 2 = 1) → (mode = .logical ↔ f.xfi.val / 2 = 1) →
    exec (.src f) s =
      .next { (s.afterDecode f).backToFetch s.pcPlusOne with
        regs := s.regs.set f.r (shift (s.reg f.r) f.addr.toNat dir mode) } ∧
    exec (.rrc f) s =
      .next { (s.afterDecode f).backToFetch s.pcPlusOne with
        regs := s.regs.set f.r (rotate (s.reg f.r) f.addr.toNat dir) }

/-- TRR (45_shift_logical.md R122): CC.EQ tells whether R[rx] = R[ry], the other CC bits are as before, and nothing else but
PC changes. The operand fields are decision D15 of the spec (log entry 5). -/
def Obligations.TrrSetsTheEqualFlag : Prop :=
  ∀ (f : Fields) (s : State), s.Fetched → s.DecodeReadable f → s.pc.toNat < 8191 →
    ∃ t, exec (.trr f) s = .next t ∧
      t = { (s.afterDecode f).backToFetch s.pcPlusOne with
        cc := ccWithEqual s.cc (decide (s.reg f.rfi = s.reg f.xfi)) } ∧
      ccBit t.cc ccEQ = decide (s.reg f.rfi = s.reg f.xfi) ∧ ∀ i, i ≠ ccEQ → ccBit t.cc i = ccBit s.cc i

/-- AND, ORR and NOT (45_shift_logical.md R123, R124, R125); no flag is written. The operand fields are decision D15 of
the spec (log entry 5). -/
def Obligations.LogicWritesTheRegisterAlone : Prop :=
  ∀ (f : Fields) (s : State), s.Fetched → s.DecodeReadable f → s.pc.toNat < 8191 →
    exec (.and f) s =
      .next { (s.afterDecode f).backToFetch s.pcPlusOne with
        regs := s.regs.set f.rfi (s.reg f.rfi &&& s.reg f.xfi) } ∧
    exec (.orr f) s =
      .next { (s.afterDecode f).backToFetch s.pcPlusOne with
        regs := s.regs.set f.rfi (s.reg f.rfi ||| s.reg f.xfi) } ∧
    exec (.not f) s =
      .next { (s.afterDecode f).backToFetch s.pcPlusOne with regs := s.regs.set f.rfi (~~~(s.reg f.rfi)) }

/-! ## Faults -/

/-- Taking a fault in each phase of a tick (60_exceptions.md R129, R130): the record, and what of the tick survives.
Decisions D35 and D36 of the spec; that a fault is a next state is log entry 2. -/
def Obligations.FaultsEndTheTickWhereTheyAreRaised : Prop :=
  ∀ (s s1 s2 : State) (k : FaultKind), s.stopped = false →
    (controlUnitPhase s = .raise k →
      tick s = .next { s with
        fault := some ⟨k, s.pc, s.ir, s.dec, s.top, s.micro, .controlUnit⟩ }) ∧
    (controlUnitPhase s = .done s1 → aluPhase s1 = .raise k →
      tick s = .next { s1 with
        fault := some ⟨k, s1.pc, s1.ir, s1.dec, s1.top, s1.micro, .alu⟩ }) ∧
    (controlUnitPhase s = .done s1 → aluPhase s1 = .done s2 → memoryPhase s2 = .raise k →
      tick s = .next { s2 with
        fault := some ⟨k, s2.pc, s2.ir, s2.dec, s2.top, s2.micro, .memory⟩ })

/-- The decode read of an instruction other than AIR and SIR at an address that names no cell (40_cycle.md R79; 20_memory.md
R43). -/
def Obligations.DecodeReadOutsideMemoryFaults : Prop :=
  ∀ (i : Instr) (s : State) (b : Nat), s.Fetched → i.mnemonic ≠ .AIR → i.mnemonic ≠ .SIR → i.fields.ibit = true →
    s.baseAddress i.fields = b →
    (2048 ≤ b → b ≤ 8191 →
      exec i s = .next (State.takeFault
        { s with dec := some (latched i), micro := 2, mar := BitVec.ofNat 13 b, mstate := .preFetch }
        (.addressOutOfRange b) .memory)) ∧
    (8191 < b →
      exec i s = .next (State.takeFault { s with dec := some (latched i), micro := 1 } (.construction 13 b) .controlUnit))

/-- The execute access of LDR, AMR, SMR, STR, and of LDX and STX with a named register, at an address that names no cell
(42_halt_load_store.md R102, R103, R105, R106; 43_arithmetic.md R107, R108). -/
def Obligations.ExecuteAccessOutsideMemoryFaults : Prop :=
  ∀ (f : Fields) (s : State) (ea : Nat), s.Fetched → s.DecodeReadable f → s.effectiveAddress f = ea → 2048 ≤ ea →
    (∀ i ∈ [Instr.ldr f, .amr f, .smr f, .ldx f], (i = .ldx f → f.xfi ≠ 0) →
      (ea ≤ 8191 → exec i s = .next (((s.atExecute i).readPending ea).takeFault (.addressOutOfRange ea) .memory)) ∧
      (8191 < ea → exec i s = .next ((s.atExecute i).takeFault (.construction 13 ea) .controlUnit))) ∧
    (∀ v, ∀ i ∈ [Instr.str f, .stx f], (i = .str f → v = s.reg f.r) →
      (i = .stx f → ∃ x, s.index.get f.xfi = some x ∧ v = x.setWidth 20) →
      (ea ≤ 8191 → exec i s = .next (((s.atExecute i).writePending ea v).takeFault (.addressOutOfRange ea) .memory)) ∧
      (8191 < ea → exec i s = .next ((s.atExecute i).takeFault (.construction 13 ea) .controlUnit)))

/-- A PC that needs more than 13 bits. A taken transfer to a target above 8191, and RFS with such a link
(44_control_transfer.md R111, R117): the microstep writes nothing. Completion at PC 8191 without a jump (10_state.md R21;
60_exceptions.md R128), which only a host write of PC can bring about: ConstructionError(13, 8192) in the last microstep,
which writes nothing; what LDA, STR and STX wrote in E0 stands (log entry 22). An inference of the spec (R21, R111, R128,
R132). -/
def Obligations.TakenTransferTooWideFaults : Prop :=
  (∀ (f : Fields) (s : State) (ea : Nat), s.Fetched → s.DecodeReadable f → s.effectiveAddress f = ea →
    (8191 < ea →
      (∀ (i : Instr) (taken : Bool), (i, taken) ∈
          [(Instr.jz f, decide (s.reg f.r = 0)), (.jne f, decide (s.reg f.r ≠ 0)), (.jcc f, ccBit s.cc f.cc),
            (.jge f, decide (0 ≤ (s.reg f.r).toInt)), (.jmp f, true), (.jsr f, true)] → taken = true →
        exec i s = .next ((s.atExecute i).takeFault (.construction 13 ea) .controlUnit)) ∧
      (0 < (s.reg f.r - 1).toInt →
        exec (.sob f) s = .next ((s.sobDecided f).takeFault (.construction 13 ea) .controlUnit))) ∧
    (8191 < (s.reg 3).toNat →
      exec (.rfs f) s = .next ((s.atExecute (.rfs f)).takeFault (.construction 13 (s.reg 3).toNat) .controlUnit)) ∧
    (s.pc.toNat = 8191 →
      (∀ (i : Instr) (taken : Bool), (i, taken) ∈
          [(Instr.jz f, decide (s.reg f.r = 0)), (.jne f, decide (s.reg f.r ≠ 0)), (.jcc f, ccBit s.cc f.cc),
            (.jge f, decide (0 ≤ (s.reg f.r).toInt)), (.src f, false), (.rrc f, false), (.trr f, false), (.orr f, false),
            (.not f, false)] → taken = false →
        exec i s = .next (s.atExecute i).pastLastPc) ∧
      ((s.reg f.r - 1).toInt ≤ 0 → exec (.sob f) s = .next (s.sobDecided f).pastLastPc) ∧
      exec (.and f) s = .next (State.pastLastPc
        { s.atExecute (.and f) with
          micro := 4, astate := .finished, result := some (s.reg f.rfi &&& s.reg f.xfi) }) ∧
      exec (.lda f) s = .next (State.pastLastPc
        { s.atExecute (.lda f) with micro := 1, regs := s.regs.set f.r (BitVec.ofNat 20 ea) }) ∧
      (ea < 2048 → ∀ m, s.mem.read ea = m →
        exec (.ldr f) s = .next (State.pastLastPc
          { (s.atExecute (.ldr f)).readPending ea with mbr := m, mstate := .fetch }) ∧
        (f.xfi ≠ 0 → m.toNat ≤ 8191 → exec (.ldx f) s = .next (State.pastLastPc
          { (s.atExecute (.ldx f)).readPending ea with mbr := m, mstate := .fetch })) ∧
        exec (.str f) s = .next (State.pastLastPc
          { (s.atExecute (.str f)).writePending ea (s.reg f.r) with
            mem := s.mem.write ea (s.reg f.r), mstate := .store }) ∧
        (∀ x, s.index.get f.xfi = some x → exec (.stx f) s = .next (State.pastLastPc
          { (s.atExecute (.stx f)).writePending ea (x.setWidth 20) with
            mem := s.mem.write ea (x.setWidth 20), mstate := .store })) ∧
        exec (.amr f) s = .next (State.pastLastPc
          { s.atExecute (.amr f) with
            micro := 5, mar := BitVec.ofNat 13 ea, mbr := m, astate := .finished, result := some (m + s.reg f.r),
            cc := ccWithOverflow s.cc (addOverflow m (s.reg f.r) (m + s.reg f.r)) }) ∧
        exec (.smr f) s = .next (State.pastLastPc
          { s.atExecute (.smr f) with
            micro := 5, mar := BitVec.ofNat 13 ea, mbr := m, astate := .finished, result := some (m - s.reg f.r),
            cc := ccWithOverflow s.cc (subOverflow m (s.reg f.r) (m - s.reg f.r)) })))) ∧
  ∀ (f : Fields) (s : State) (imm : Word), s.Fetched → f.addr.setWidth 20 = imm → s.pc.toNat = 8191 →
    exec (.air f) s = .next (State.pastLastPc
      { s with
        top := .execute, micro := 4, dec := some ⟨Config.opcodeMap .AIR, f, .none⟩, astate := .finished,
        result := some (s.reg f.r + imm),
        cc := ccWithOverflow s.cc (addOverflow (s.reg f.r) imm (s.reg f.r + imm)) }) ∧
    exec (.sir f) s = .next (State.pastLastPc
      { s with
        top := .execute, micro := 4, dec := some ⟨Config.opcodeMap .SIR, f, .none⟩, astate := .finished,
        result := some (s.reg f.r - imm),
        cc := ccWithOverflow s.cc (subOverflow (s.reg f.r) imm (s.reg f.r - imm)) })

/-- LDX and STX with index field 0, and LDX of a word above 8191 (42_halt_load_store.md R105, R106). Decisions D5 and
D30 of the spec. -/
def Obligations.IndexRegisterFaults : Prop :=
  ∀ (f : Fields) (s : State), s.Fetched → s.DecodeReadable f →
    (f.xfi = 0 →
      exec (.ldx f) s = .next ((s.atExecute (.ldx f)).takeFault (.invalidRegister 0) .controlUnit) ∧
      exec (.stx f) s = .next ((s.atExecute (.stx f)).takeFault (.invalidRegister 0) .controlUnit)) ∧
    (f.xfi ≠ 0 → ∀ ea w, s.effectiveAddress f = ea → ea < 2048 → s.mem.read ea = w → 8191 < w.toNat →
      exec (.ldx f) s = .next (State.takeFault
        { s.atExecute (.ldx f) with micro := 1, mar := BitVec.ofNat 13 ea, mbr := w, mstate := .fetch }
        (.construction 13 w.toNat) .controlUnit))

/-- The forty opcodes that are no instruction (30_encoding.md R67, under the default `OPCODE_MAP`, log entry 4), and what a
step does with such a word: it is decoded like any other, so that a decode read that names no cell faults there, never
with UnhandledOpcodeError (60_exceptions.md R131); otherwise UnhandledOpcodeError at EXECUTE µ0 (40_cycle.md R81). -/
def Obligations.UnhandledOpcodesAreDecodedThenFault : Prop :=
  (∀ w : Word,
    (decode w = .error (.unhandledOpcode (opcodeField w)) ↔
      (opcodeField w).toNat ∈ [16, 17, 22, 23, 24] ∨ (27 ≤ (opcodeField w).toNat ∧ (opcodeField w).toNat ≤ 32) ∨
        35 ≤ (opcodeField w).toNat) ∧
    ∀ e, decode w = .error e → e = .unhandledOpcode (opcodeField w)) ∧
  ∀ (s : State) (w : Word) (op : BitVec 6), s.Ready → s.pc.toNat < 2048 → s.mem.read s.pc.toNat = w →
    decode w = .error (.unhandledOpcode op) →
    (s.afterFetch.DecodeReadable (fieldsOf w) →
      step s = .next (State.takeFault
        { s.afterFetch.afterDecode (fieldsOf w) with
          top := .execute, micro := 0, dec := some { opcode := op, fields := fieldsOf w, mode := eaMode (fieldsOf w) },
          ea := some (s.afterFetch.effectiveAddress (fieldsOf w)) }
        (.unhandledOpcode op) .controlUnit)) ∧
    ((fieldsOf w).ibit = true → ∀ b, s.afterFetch.baseAddress (fieldsOf w) = b →
      (2048 ≤ b → b ≤ 8191 →
        step s = .next (State.takeFault
          { s.afterFetch with
            dec := some { opcode := op, fields := fieldsOf w, mode := eaMode (fieldsOf w) }, micro := 2,
            mar := BitVec.ofNat 13 b, mstate := .preFetch }
          (.addressOutOfRange b) .memory)) ∧
      (8191 < b →
        step s = .next (State.takeFault
          { s.afterFetch with
            dec := some { opcode := op, fields := fieldsOf w, mode := eaMode (fieldsOf w) }, micro := 1 }
          (.construction 13 b) .controlUnit)))

/-- A fault leaves R0–R3, X1–X3, PC and memory as they were when the faulting instruction began (60_exceptions.md R132). -/
def Obligations.FaultsLeaveRegistersPcAndMemory : Prop :=
  ∀ s t : State, s.Ready → step s = .next t → t.fault ≠ none →
    t.regs = s.regs ∧ t.index = s.index ∧ t.pc = s.pc ∧ t.mem = s.mem

/-- In runs without host requests no program reaches DivisionByZeroError or ALUProtocolError (60_exceptions.md R126,
41_alu.md R100). -/
def Obligations.ProgramsNeverReachTheUnitFaults : Prop :=
  ∀ (s t : State) (r : FaultRecord), s.runInv = true → s.fault = none → tick s = .next t → t.fault = some r →
    r.kind ≠ .divisionByZero ∧ ∀ c, r.kind ≠ .aluProtocol c

/-! ## The machine as a whole -/

/-- Construction leaves the values of 10_state.md R32. The register and unit values are decision D1 of the spec (log
entry 9). -/
def Obligations.ConstructionLeavesTheStatedValues : Prop :=
  (∀ a, State.reset.mem.read a = 0) ∧ (∀ i, State.reset.reg i = 0) ∧ (∀ i, i ≠ 0 → State.reset.index.get i = some 0) ∧
  State.reset.pc = 0 ∧ State.reset.ir = 0 ∧ State.reset.msr = 0 ∧ State.reset.mfr = 0 ∧ State.reset.mar = 0 ∧
  State.reset.mbr = 0 ∧ State.reset.cc = 0 ∧ State.reset.top = .fetch ∧ State.reset.micro = 0 ∧ State.reset.dec = none ∧
  State.reset.ea = none ∧ State.reset.nextPC = none ∧ State.reset.halted = false ∧ State.reset.fault = none ∧
  State.reset.mstate = .none ∧ State.reset.astate = .none ∧ State.reset.op1 = none ∧ State.reset.op2 = none ∧
  State.reset.ctrl = none ∧ State.reset.result = none

/-- A tick that begins halted or faulted changes no state (40_cycle.md R72), and so a step. Decision D22 of the spec. -/
def Obligations.StoppedMachinesNeverChange : Prop :=
  ∀ s : State, s.fault ≠ none ∨ s.halted = true → tick s = .next s ∧ step s = .next s

/-- A step at an instruction boundary with a word at PC that decodes to `i` is `exec i` after the fetch, which clears CC
and leaves PC in MAR and the word in MBR and IR (40_cycle.md R75 to R77, R81). That a step is one instruction is the
model's choice (log entry 1). -/
def Obligations.StepRunsTheDecodedInstruction : Prop :=
  ∀ (s : State) (i : Instr), s.Ready → s.pc.toNat < 2048 → decode (s.mem.read s.pc.toNat) = .ok i → i.WellFormed →
    step s = exec i { s with
      cc := 0, mar := s.pc, mbr := s.mem.read s.pc.toNat, ir := s.mem.read s.pc.toNat, mstate := .none,
      top := .decode, micro := 0 }

/-- A step is exactly the ticks of one instruction to its end (40_cycle.md R70, R73, R84), and from any state a step that
answers a next state ends at an instruction boundary or with the run's end: the model's bound on ticks is never what ends
it. The step is the model's choice of granularity (log entries 1 and 15). -/
def Obligations.StepRunsTheTicksOfOneInstruction : Prop :=
  (∀ s : State, s.LatchesAgree → step s = tickToEnd s) ∧
  ∀ s t : State, step s = .next t → t.stopped = true ∨ t.AtBoundary

/-- An instruction that neither stalls nor faults takes the tabulated ticks, and no fewer (40_cycle.md R85;
70_reset_and_hazards.md R151). -/
def Obligations.InstructionsTakeTheTabulatedTicks : Prop :=
  ∀ (s t : State) (i : Instr), s.Ready → s.pc.toNat < 2048 → decode (s.mem.read s.pc.toNat) = .ok i →
    step s = .next t → t.fault = none →
    ticks (instructionTicks i) s = .next t ∧
    ∀ (k : Nat) (u : State), 0 < k → k < instructionTicks i → ticks k s = .next u → u.stopped = false ∧ ¬u.AtBoundary

/-- The run invariant holds at construction. -/
def Obligations.RunInvariantHoldsAtConstruction : Prop := State.reset.runInv = true

/-- Every tick keeps the run invariant. -/
def Obligations.TicksKeepTheRunInvariant : Prop :=
  ∀ s t : State, s.runInv = true → tick s = .next t → t.runInv = true

/-- Every step from an instruction boundary keeps the run invariant. The step is the model's choice (log entry 1). -/
def Obligations.StepsKeepTheRunInvariant : Prop :=
  ∀ s t : State, s.runInv = true → s.AtBoundary ∨ s.stopped = true → step s = .next t → t.runInv = true

/-- Without host requests no microstep stalls and none is missing (70_reset_and_hazards.md R149). -/
def Obligations.RunsNeverStallOrMeetAMissingRule : Prop :=
  ∀ s : State, s.runInv = true → s.stopped = false →
    ∃ t, tick s = .next t ∧ (t.stopped = true ∨ t.top ≠ s.top ∨ t.micro ≠ s.micro)

/-- Whatever the host does between ticks, memory stays canonical, CC.UNF and CC.DVZ stay 0, and MSR and MFR keep their
construction values (10_state.md R23, R24, R26). The canonical form is the model's (log entry 10). -/
def Obligations.EveryEventKeepsTheBasicInvariant : Prop :=
  ∀ (es : List Event) (s t : State), s.basicInv = true → runEvents es s = .next t → t.basicInv = true

/-- MSR and MFR are neither written nor read, by any tick, fault or host action (10_state.md R23, R24): from a state with
other values in them every sequence of events does the same, and the host sees the same. -/
def Obligations.MsrAndMfrAreNeitherReadNorWritten : Prop :=
  ∀ (es : List Event) (s : State) (a : Word) (b : BitVec 4),
    (∀ t, runEvents es s = .next t → t.msr = s.msr ∧ t.mfr = s.mfr ∧
      runEvents es { s with msr := a, mfr := b } = .next { t with msr := a, mfr := b }) ∧
    (∀ r, runEvents es s = .fault r → runEvents es { s with msr := a, mfr := b } = .fault r) ∧
    ∀ h : HostAction, (State.perform { s with msr := a, mfr := b } h).1 = (s.perform h).1

/-- The trace bit is latched and has no other effect (30_encoding.md R64). Decision D17 of the spec. -/
def Obligations.TraceBitHasNoEffect : Prop :=
  ∀ (i : Instr) (b : Bool) (s t : State), s.Fetched → exec i s = .next t →
    ∃ u, exec (setTrace i b) s = .next u ∧ u.withoutTrace = t.withoutTrace

/-- A step that runs a JCC and does not fault goes to PC + 1 (44_control_transfer.md R114, 10_state.md R26). -/
def Obligations.JccNeverJumpsInARun : Prop :=
  ∀ (s t : State) (f : Fields), s.Ready → s.pc.toNat < 2048 → decode (s.mem.read s.pc.toNat) = .ok (.jcc f) →
    step s = .next t → t.fault = none → t.pc.toNat = s.pc.toNat + 1 ∧ t.AtBoundary

/-! ## The host -/

/-- The host's surface (10_state.md R31): a write by name constructs its pattern or answers the error and changes nothing;
writes of MAR and MBR are memory requests, refused while the unit is busy (70_reset_and_hazards.md R148); a write of CC is
ignored; a read answers the register's current value, CC as 8·OVF + 4·UNF + 2·DVZ + EQ (R27), and changes nothing.
Decisions D2, D8 and D9 of the spec; which answer a bad MBR value gets from a busy unit (log entry 16) is left open. -/
def Obligations.HostWritesConstructOrLeaveTheRegister : Prop :=
  (∀ (s : State) (n : Int),
    (∀ i, s.writeRegister (.general i) n =
      if -524287 ≤ n ∧ n ≤ 1048575 then (.success, { s with regs := s.regs.set i (BitVec.ofInt 20 n) })
      else (.constructionError 20 n, s)) ∧
    (∀ x : IndexName, s.writeRegister (.index x) n =
      if -4095 ≤ n ∧ n ≤ 8191 then (.success, { s with index := s.index.set x.id (BitVec.ofInt 13 n) })
      else (.constructionError 13 n, s)) ∧
    s.writeRegister .pc n =
      (if -4095 ≤ n ∧ n ≤ 8191 then (.success, { s with pc := BitVec.ofInt 13 n }) else (.constructionError 13 n, s)) ∧
    s.writeRegister .ir n =
      (if -524287 ≤ n ∧ n ≤ 1048575 then (.success, { s with ir := BitVec.ofInt 20 n })
      else (.constructionError 20 n, s)) ∧
    s.writeRegister .mar n =
      (if s.mstate.busy then (.refused, s)
      else if -4095 ≤ n ∧ n ≤ 8191 then (.success, { s with mar := BitVec.ofInt 13 n, mstate := .preFetch })
      else (.constructionError 13 n, s)) ∧
    (-524287 ≤ n ∧ n ≤ 1048575 → s.writeRegister .mbr n =
      if s.mstate.busy then (.refused, s) else (.success, { s with mbr := BitVec.ofInt 20 n, mstate := .preStore })) ∧
    (¬(-524287 ≤ n ∧ n ≤ 1048575) →
      (s.mstate.busy = false → s.writeRegister .mbr n = (.constructionError 20 n, s)) ∧
      (s.mstate.busy = true →
        s.writeRegister .mbr n = (.constructionError 20 n, s) ∨ s.writeRegister .mbr n = (.refused, s))) ∧
    s.writeRegister .cc n = (.nothing, s)) ∧
  ∀ s : State,
    (∀ i, s.perform (.readRegister (.general i)) = (.value (s.reg i).toNat, s)) ∧
    s.perform (.readRegister (.index .x1)) = (.value s.index.x1.toNat, s) ∧
    s.perform (.readRegister (.index .x2)) = (.value s.index.x2.toNat, s) ∧
    s.perform (.readRegister (.index .x3)) = (.value s.index.x3.toNat, s) ∧
    s.perform (.readRegister .mar) = (.value s.mar.toNat, s) ∧ s.perform (.readRegister .mbr) = (.value s.mbr.toNat, s) ∧
    s.perform (.readRegister .pc) = (.value s.pc.toNat, s) ∧ s.perform (.readRegister .ir) = (.value s.ir.toNat, s) ∧
    s.perform (.readRegister .cc) =
      (.value (8 * (ccBit s.cc ccOVF).toNat + 4 * (ccBit s.cc ccUNF).toNat + 2 * (ccBit s.cc ccDVZ).toNat +
        (ccBit s.cc ccEQ).toNat), s)

/-- The engineering interface (20_memory.md R45): one cell, or the error that names the bad address or value; no register
and no unit state changes. Decision D11 of the spec; which of the two errors is answered when both the address and the value
are bad (log entry 16) is left open. -/
def Obligations.EngineeringInterfaceTouchesOneCell : Prop :=
  ∀ (s : State) (a : Nat) (n : Int), s.mem.wf = true →
    (a < 2048 → -524287 ≤ n → n ≤ 1048575 →
      ∃ t, s.engineerSet a n = (.success, t) ∧ { t with mem := s.mem } = s ∧ t.mem.read a = BitVec.ofInt 20 n ∧
        ∀ b, b ≠ a → t.mem.read b = s.mem.read b) ∧
    (a < 2048 → ¬(-524287 ≤ n ∧ n ≤ 1048575) → s.engineerSet a n = (.constructionError 20 n, s)) ∧
    (2048 ≤ a → -524287 ≤ n → n ≤ 1048575 → s.engineerSet a n = (.addressError a, s)) ∧
    (2048 ≤ a → ¬(-524287 ≤ n ∧ n ≤ 1048575) →
      s.engineerSet a n = (.addressError a, s) ∨ s.engineerSet a n = (.constructionError 20 n, s)) ∧
    s.engineerFetch a = if a < 2048 then (.value (s.mem.read a).toNat, s) else (.addressError a, s)

/-- A host write of MBR while the memory unit is idle stores into the cell of MAR in the next tick that makes no request,
and the unit is then busy (70_reset_and_hazards.md R148). -/
def Obligations.HostMbrDepositStoresAtMar : Prop :=
  ∀ (s : State) (n : Int), s.Fetched → s.mar.toNat < 2048 → s.mem.wf = true → -524287 ≤ n → n ≤ 1048575 →
    ∃ u t, s.writeRegister .mbr n = (.success, u) ∧ tick u = .next t ∧
      t.mem.read s.mar.toNat = BitVec.ofInt 20 n ∧ (∀ a, a ≠ s.mar.toNat → t.mem.read a = s.mem.read a) ∧
      t.mstate = .store ∧ (∀ a, t.setMAR a = .refused) ∧
      ∀ m, t.writeRegister .mar m = (.refused, t)
end

