-- ==== Sys2Proof/Laws/State.lean ====
section
/-!
SUPPORT. One lemma per field per update of the state, so that no later proof unfolds a record update.
-/

namespace Sys2Proof.Machine

open Sys2Proof

section Updates

variable (s : State)

/-! ## `setReg` -/

@[simp] theorem State.setReg_regs (i : Fin 4) (v : Word) : (s.setReg i v).regs = s.regs.set i v := rfl
@[simp] theorem State.setReg_index (i : Fin 4) (v : Word) : (s.setReg i v).index = s.index := rfl
@[simp] theorem State.setReg_pc (i : Fin 4) (v : Word) : (s.setReg i v).pc = s.pc := rfl
@[simp] theorem State.setReg_ir (i : Fin 4) (v : Word) : (s.setReg i v).ir = s.ir := rfl
@[simp] theorem State.setReg_msr (i : Fin 4) (v : Word) : (s.setReg i v).msr = s.msr := rfl
@[simp] theorem State.setReg_mfr (i : Fin 4) (v : Word) : (s.setReg i v).mfr = s.mfr := rfl
@[simp] theorem State.setReg_cc (i : Fin 4) (v : Word) : (s.setReg i v).cc = s.cc := rfl
@[simp] theorem State.setReg_mar (i : Fin 4) (v : Word) : (s.setReg i v).mar = s.mar := rfl
@[simp] theorem State.setReg_mbr (i : Fin 4) (v : Word) : (s.setReg i v).mbr = s.mbr := rfl
@[simp] theorem State.setReg_mem (i : Fin 4) (v : Word) : (s.setReg i v).mem = s.mem := rfl
@[simp] theorem State.setReg_top (i : Fin 4) (v : Word) : (s.setReg i v).top = s.top := rfl
@[simp] theorem State.setReg_micro (i : Fin 4) (v : Word) : (s.setReg i v).micro = s.micro := rfl
@[simp] theorem State.setReg_dec (i : Fin 4) (v : Word) : (s.setReg i v).dec = s.dec := rfl
@[simp] theorem State.setReg_ea (i : Fin 4) (v : Word) : (s.setReg i v).ea = s.ea := rfl
@[simp] theorem State.setReg_nextPC (i : Fin 4) (v : Word) : (s.setReg i v).nextPC = s.nextPC := rfl
@[simp] theorem State.setReg_halted (i : Fin 4) (v : Word) : (s.setReg i v).halted = s.halted := rfl
@[simp] theorem State.setReg_fault (i : Fin 4) (v : Word) : (s.setReg i v).fault = s.fault := rfl
@[simp] theorem State.setReg_mstate (i : Fin 4) (v : Word) : (s.setReg i v).mstate = s.mstate := rfl
@[simp] theorem State.setReg_astate (i : Fin 4) (v : Word) : (s.setReg i v).astate = s.astate := rfl
@[simp] theorem State.setReg_op1 (i : Fin 4) (v : Word) : (s.setReg i v).op1 = s.op1 := rfl
@[simp] theorem State.setReg_op2 (i : Fin 4) (v : Word) : (s.setReg i v).op2 = s.op2 := rfl
@[simp] theorem State.setReg_ctrl (i : Fin 4) (v : Word) : (s.setReg i v).ctrl = s.ctrl := rfl
@[simp] theorem State.setReg_result (i : Fin 4) (v : Word) : (s.setReg i v).result = s.result := rfl

/-! ## `setIndex` -/

@[simp] theorem State.setIndex_regs (i : Fin 4) (v : Addr) : (s.setIndex i v).regs = s.regs := rfl
@[simp] theorem State.setIndex_index (i : Fin 4) (v : Addr) : (s.setIndex i v).index = s.index.set i v := rfl
@[simp] theorem State.setIndex_pc (i : Fin 4) (v : Addr) : (s.setIndex i v).pc = s.pc := rfl
@[simp] theorem State.setIndex_ir (i : Fin 4) (v : Addr) : (s.setIndex i v).ir = s.ir := rfl
@[simp] theorem State.setIndex_msr (i : Fin 4) (v : Addr) : (s.setIndex i v).msr = s.msr := rfl
@[simp] theorem State.setIndex_mfr (i : Fin 4) (v : Addr) : (s.setIndex i v).mfr = s.mfr := rfl
@[simp] theorem State.setIndex_cc (i : Fin 4) (v : Addr) : (s.setIndex i v).cc = s.cc := rfl
@[simp] theorem State.setIndex_mar (i : Fin 4) (v : Addr) : (s.setIndex i v).mar = s.mar := rfl
@[simp] theorem State.setIndex_mbr (i : Fin 4) (v : Addr) : (s.setIndex i v).mbr = s.mbr := rfl
@[simp] theorem State.setIndex_mem (i : Fin 4) (v : Addr) : (s.setIndex i v).mem = s.mem := rfl
@[simp] theorem State.setIndex_top (i : Fin 4) (v : Addr) : (s.setIndex i v).top = s.top := rfl
@[simp] theorem State.setIndex_micro (i : Fin 4) (v : Addr) : (s.setIndex i v).micro = s.micro := rfl
@[simp] theorem State.setIndex_dec (i : Fin 4) (v : Addr) : (s.setIndex i v).dec = s.dec := rfl
@[simp] theorem State.setIndex_ea (i : Fin 4) (v : Addr) : (s.setIndex i v).ea = s.ea := rfl
@[simp] theorem State.setIndex_nextPC (i : Fin 4) (v : Addr) : (s.setIndex i v).nextPC = s.nextPC := rfl
@[simp] theorem State.setIndex_halted (i : Fin 4) (v : Addr) : (s.setIndex i v).halted = s.halted := rfl
@[simp] theorem State.setIndex_fault (i : Fin 4) (v : Addr) : (s.setIndex i v).fault = s.fault := rfl
@[simp] theorem State.setIndex_mstate (i : Fin 4) (v : Addr) : (s.setIndex i v).mstate = s.mstate := rfl
@[simp] theorem State.setIndex_astate (i : Fin 4) (v : Addr) : (s.setIndex i v).astate = s.astate := rfl
@[simp] theorem State.setIndex_op1 (i : Fin 4) (v : Addr) : (s.setIndex i v).op1 = s.op1 := rfl
@[simp] theorem State.setIndex_op2 (i : Fin 4) (v : Addr) : (s.setIndex i v).op2 = s.op2 := rfl
@[simp] theorem State.setIndex_ctrl (i : Fin 4) (v : Addr) : (s.setIndex i v).ctrl = s.ctrl := rfl
@[simp] theorem State.setIndex_result (i : Fin 4) (v : Addr) : (s.setIndex i v).result = s.result := rfl

/-! ## `nextMicro` -/

@[simp] theorem State.nextMicro_regs : s.nextMicro.regs = s.regs := rfl
@[simp] theorem State.nextMicro_index : s.nextMicro.index = s.index := rfl
@[simp] theorem State.nextMicro_pc : s.nextMicro.pc = s.pc := rfl
@[simp] theorem State.nextMicro_ir : s.nextMicro.ir = s.ir := rfl
@[simp] theorem State.nextMicro_msr : s.nextMicro.msr = s.msr := rfl
@[simp] theorem State.nextMicro_mfr : s.nextMicro.mfr = s.mfr := rfl
@[simp] theorem State.nextMicro_cc : s.nextMicro.cc = s.cc := rfl
@[simp] theorem State.nextMicro_mar : s.nextMicro.mar = s.mar := rfl
@[simp] theorem State.nextMicro_mbr : s.nextMicro.mbr = s.mbr := rfl
@[simp] theorem State.nextMicro_mem : s.nextMicro.mem = s.mem := rfl
@[simp] theorem State.nextMicro_top : s.nextMicro.top = s.top := rfl
@[simp] theorem State.nextMicro_micro : s.nextMicro.micro = s.micro + 1 := rfl
@[simp] theorem State.nextMicro_dec : s.nextMicro.dec = s.dec := rfl
@[simp] theorem State.nextMicro_ea : s.nextMicro.ea = s.ea := rfl
@[simp] theorem State.nextMicro_nextPC : s.nextMicro.nextPC = s.nextPC := rfl
@[simp] theorem State.nextMicro_halted : s.nextMicro.halted = s.halted := rfl
@[simp] theorem State.nextMicro_fault : s.nextMicro.fault = s.fault := rfl
@[simp] theorem State.nextMicro_mstate : s.nextMicro.mstate = s.mstate := rfl
@[simp] theorem State.nextMicro_astate : s.nextMicro.astate = s.astate := rfl
@[simp] theorem State.nextMicro_op1 : s.nextMicro.op1 = s.op1 := rfl
@[simp] theorem State.nextMicro_op2 : s.nextMicro.op2 = s.op2 := rfl
@[simp] theorem State.nextMicro_ctrl : s.nextMicro.ctrl = s.ctrl := rfl
@[simp] theorem State.nextMicro_result : s.nextMicro.result = s.result := rfl

/-! ## `enter` -/

@[simp] theorem State.enter_regs (t : TopState) : (s.enter t).regs = s.regs := rfl
@[simp] theorem State.enter_index (t : TopState) : (s.enter t).index = s.index := rfl
@[simp] theorem State.enter_pc (t : TopState) : (s.enter t).pc = s.pc := rfl
@[simp] theorem State.enter_ir (t : TopState) : (s.enter t).ir = s.ir := rfl
@[simp] theorem State.enter_msr (t : TopState) : (s.enter t).msr = s.msr := rfl
@[simp] theorem State.enter_mfr (t : TopState) : (s.enter t).mfr = s.mfr := rfl
@[simp] theorem State.enter_cc (t : TopState) : (s.enter t).cc = s.cc := rfl
@[simp] theorem State.enter_mar (t : TopState) : (s.enter t).mar = s.mar := rfl
@[simp] theorem State.enter_mbr (t : TopState) : (s.enter t).mbr = s.mbr := rfl
@[simp] theorem State.enter_mem (t : TopState) : (s.enter t).mem = s.mem := rfl
@[simp] theorem State.enter_top (t : TopState) : (s.enter t).top = t := rfl
@[simp] theorem State.enter_micro (t : TopState) : (s.enter t).micro = 0 := rfl
@[simp] theorem State.enter_dec (t : TopState) : (s.enter t).dec = s.dec := rfl
@[simp] theorem State.enter_ea (t : TopState) : (s.enter t).ea = s.ea := rfl
@[simp] theorem State.enter_nextPC (t : TopState) : (s.enter t).nextPC = s.nextPC := rfl
@[simp] theorem State.enter_halted (t : TopState) : (s.enter t).halted = s.halted := rfl
@[simp] theorem State.enter_fault (t : TopState) : (s.enter t).fault = s.fault := rfl
@[simp] theorem State.enter_mstate (t : TopState) : (s.enter t).mstate = s.mstate := rfl
@[simp] theorem State.enter_astate (t : TopState) : (s.enter t).astate = s.astate := rfl
@[simp] theorem State.enter_op1 (t : TopState) : (s.enter t).op1 = s.op1 := rfl
@[simp] theorem State.enter_op2 (t : TopState) : (s.enter t).op2 = s.op2 := rfl
@[simp] theorem State.enter_ctrl (t : TopState) : (s.enter t).ctrl = s.ctrl := rfl
@[simp] theorem State.enter_result (t : TopState) : (s.enter t).result = s.result := rfl

/-! ## `finishAt` -/

@[simp] theorem State.finishAt_regs (p : Addr) : (s.finishAt p).regs = s.regs := rfl
@[simp] theorem State.finishAt_index (p : Addr) : (s.finishAt p).index = s.index := rfl
@[simp] theorem State.finishAt_pc (p : Addr) : (s.finishAt p).pc = p := rfl
@[simp] theorem State.finishAt_ir (p : Addr) : (s.finishAt p).ir = s.ir := rfl
@[simp] theorem State.finishAt_msr (p : Addr) : (s.finishAt p).msr = s.msr := rfl
@[simp] theorem State.finishAt_mfr (p : Addr) : (s.finishAt p).mfr = s.mfr := rfl
@[simp] theorem State.finishAt_cc (p : Addr) : (s.finishAt p).cc = s.cc := rfl
@[simp] theorem State.finishAt_mar (p : Addr) : (s.finishAt p).mar = s.mar := rfl
@[simp] theorem State.finishAt_mbr (p : Addr) : (s.finishAt p).mbr = s.mbr := rfl
@[simp] theorem State.finishAt_mem (p : Addr) : (s.finishAt p).mem = s.mem := rfl
@[simp] theorem State.finishAt_top (p : Addr) : (s.finishAt p).top = .fetch := rfl
@[simp] theorem State.finishAt_micro (p : Addr) : (s.finishAt p).micro = 0 := rfl
@[simp] theorem State.finishAt_dec (p : Addr) : (s.finishAt p).dec = none := rfl
@[simp] theorem State.finishAt_ea (p : Addr) : (s.finishAt p).ea = none := rfl
@[simp] theorem State.finishAt_nextPC (p : Addr) : (s.finishAt p).nextPC = none := rfl
@[simp] theorem State.finishAt_halted (p : Addr) : (s.finishAt p).halted = s.halted := rfl
@[simp] theorem State.finishAt_fault (p : Addr) : (s.finishAt p).fault = s.fault := rfl
@[simp] theorem State.finishAt_mstate (p : Addr) : (s.finishAt p).mstate = s.mstate := rfl
@[simp] theorem State.finishAt_astate (p : Addr) : (s.finishAt p).astate = s.astate := rfl
@[simp] theorem State.finishAt_op1 (p : Addr) : (s.finishAt p).op1 = s.op1 := rfl
@[simp] theorem State.finishAt_op2 (p : Addr) : (s.finishAt p).op2 = s.op2 := rfl
@[simp] theorem State.finishAt_ctrl (p : Addr) : (s.finishAt p).ctrl = s.ctrl := rfl
@[simp] theorem State.finishAt_result (p : Addr) : (s.finishAt p).result = s.result := rfl

/-! ## `halt` -/

@[simp] theorem State.halt_regs : s.halt.regs = s.regs := rfl
@[simp] theorem State.halt_index : s.halt.index = s.index := rfl
@[simp] theorem State.halt_pc : s.halt.pc = s.pc := rfl
@[simp] theorem State.halt_ir : s.halt.ir = s.ir := rfl
@[simp] theorem State.halt_msr : s.halt.msr = s.msr := rfl
@[simp] theorem State.halt_mfr : s.halt.mfr = s.mfr := rfl
@[simp] theorem State.halt_cc : s.halt.cc = s.cc := rfl
@[simp] theorem State.halt_mar : s.halt.mar = s.mar := rfl
@[simp] theorem State.halt_mbr : s.halt.mbr = s.mbr := rfl
@[simp] theorem State.halt_mem : s.halt.mem = s.mem := rfl
@[simp] theorem State.halt_top : s.halt.top = s.top := rfl
@[simp] theorem State.halt_micro : s.halt.micro = s.micro := rfl
@[simp] theorem State.halt_dec : s.halt.dec = s.dec := rfl
@[simp] theorem State.halt_ea : s.halt.ea = s.ea := rfl
@[simp] theorem State.halt_nextPC : s.halt.nextPC = s.nextPC := rfl
@[simp] theorem State.halt_halted : s.halt.halted = true := rfl
@[simp] theorem State.halt_fault : s.halt.fault = s.fault := rfl
@[simp] theorem State.halt_mstate : s.halt.mstate = s.mstate := rfl
@[simp] theorem State.halt_astate : s.halt.astate = s.astate := rfl
@[simp] theorem State.halt_op1 : s.halt.op1 = s.op1 := rfl
@[simp] theorem State.halt_op2 : s.halt.op2 = s.op2 := rfl
@[simp] theorem State.halt_ctrl : s.halt.ctrl = s.ctrl := rfl
@[simp] theorem State.halt_result : s.halt.result = s.result := rfl

/-! ## `takeFault` -/

@[simp] theorem State.takeFault_regs (k : FaultKind) (ph : TickPhase) : (s.takeFault k ph).regs = s.regs := rfl
@[simp] theorem State.takeFault_index (k : FaultKind) (ph : TickPhase) : (s.takeFault k ph).index = s.index := rfl
@[simp] theorem State.takeFault_pc (k : FaultKind) (ph : TickPhase) : (s.takeFault k ph).pc = s.pc := rfl
@[simp] theorem State.takeFault_ir (k : FaultKind) (ph : TickPhase) : (s.takeFault k ph).ir = s.ir := rfl
@[simp] theorem State.takeFault_msr (k : FaultKind) (ph : TickPhase) : (s.takeFault k ph).msr = s.msr := rfl
@[simp] theorem State.takeFault_mfr (k : FaultKind) (ph : TickPhase) : (s.takeFault k ph).mfr = s.mfr := rfl
@[simp] theorem State.takeFault_cc (k : FaultKind) (ph : TickPhase) : (s.takeFault k ph).cc = s.cc := rfl
@[simp] theorem State.takeFault_mar (k : FaultKind) (ph : TickPhase) : (s.takeFault k ph).mar = s.mar := rfl
@[simp] theorem State.takeFault_mbr (k : FaultKind) (ph : TickPhase) : (s.takeFault k ph).mbr = s.mbr := rfl
@[simp] theorem State.takeFault_mem (k : FaultKind) (ph : TickPhase) : (s.takeFault k ph).mem = s.mem := rfl
@[simp] theorem State.takeFault_top (k : FaultKind) (ph : TickPhase) : (s.takeFault k ph).top = s.top := rfl
@[simp] theorem State.takeFault_micro (k : FaultKind) (ph : TickPhase) : (s.takeFault k ph).micro = s.micro := rfl
@[simp] theorem State.takeFault_dec (k : FaultKind) (ph : TickPhase) : (s.takeFault k ph).dec = s.dec := rfl
@[simp] theorem State.takeFault_ea (k : FaultKind) (ph : TickPhase) : (s.takeFault k ph).ea = s.ea := rfl
@[simp] theorem State.takeFault_nextPC (k : FaultKind) (ph : TickPhase) : (s.takeFault k ph).nextPC = s.nextPC := rfl
@[simp] theorem State.takeFault_halted (k : FaultKind) (ph : TickPhase) : (s.takeFault k ph).halted = s.halted := rfl
@[simp] theorem State.takeFault_fault (k : FaultKind) (ph : TickPhase) : (s.takeFault k ph).fault = some { kind := k, pc := s.pc, ir := s.ir, dec := s.dec, top := s.top, micro := s.micro, phase := ph } := rfl
@[simp] theorem State.takeFault_mstate (k : FaultKind) (ph : TickPhase) : (s.takeFault k ph).mstate = s.mstate := rfl
@[simp] theorem State.takeFault_astate (k : FaultKind) (ph : TickPhase) : (s.takeFault k ph).astate = s.astate := rfl
@[simp] theorem State.takeFault_op1 (k : FaultKind) (ph : TickPhase) : (s.takeFault k ph).op1 = s.op1 := rfl
@[simp] theorem State.takeFault_op2 (k : FaultKind) (ph : TickPhase) : (s.takeFault k ph).op2 = s.op2 := rfl
@[simp] theorem State.takeFault_ctrl (k : FaultKind) (ph : TickPhase) : (s.takeFault k ph).ctrl = s.ctrl := rfl
@[simp] theorem State.takeFault_result (k : FaultKind) (ph : TickPhase) : (s.takeFault k ph).result = s.result := rfl

/-! ## `setOperand1` -/

@[simp] theorem State.setOperand1_regs (p : Word) : (s.setOperand1 p).regs = s.regs := rfl
@[simp] theorem State.setOperand1_index (p : Word) : (s.setOperand1 p).index = s.index := rfl
@[simp] theorem State.setOperand1_pc (p : Word) : (s.setOperand1 p).pc = s.pc := rfl
@[simp] theorem State.setOperand1_ir (p : Word) : (s.setOperand1 p).ir = s.ir := rfl
@[simp] theorem State.setOperand1_msr (p : Word) : (s.setOperand1 p).msr = s.msr := rfl
@[simp] theorem State.setOperand1_mfr (p : Word) : (s.setOperand1 p).mfr = s.mfr := rfl
@[simp] theorem State.setOperand1_cc (p : Word) : (s.setOperand1 p).cc = s.cc := rfl
@[simp] theorem State.setOperand1_mar (p : Word) : (s.setOperand1 p).mar = s.mar := rfl
@[simp] theorem State.setOperand1_mbr (p : Word) : (s.setOperand1 p).mbr = s.mbr := rfl
@[simp] theorem State.setOperand1_mem (p : Word) : (s.setOperand1 p).mem = s.mem := rfl
@[simp] theorem State.setOperand1_top (p : Word) : (s.setOperand1 p).top = s.top := rfl
@[simp] theorem State.setOperand1_micro (p : Word) : (s.setOperand1 p).micro = s.micro := rfl
@[simp] theorem State.setOperand1_dec (p : Word) : (s.setOperand1 p).dec = s.dec := rfl
@[simp] theorem State.setOperand1_ea (p : Word) : (s.setOperand1 p).ea = s.ea := rfl
@[simp] theorem State.setOperand1_nextPC (p : Word) : (s.setOperand1 p).nextPC = s.nextPC := rfl
@[simp] theorem State.setOperand1_halted (p : Word) : (s.setOperand1 p).halted = s.halted := rfl
@[simp] theorem State.setOperand1_fault (p : Word) : (s.setOperand1 p).fault = s.fault := rfl
@[simp] theorem State.setOperand1_mstate (p : Word) : (s.setOperand1 p).mstate = s.mstate := rfl
@[simp] theorem State.setOperand1_astate (p : Word) : (s.setOperand1 p).astate = s.astate := rfl
@[simp] theorem State.setOperand1_op1 (p : Word) : (s.setOperand1 p).op1 = some p := rfl
@[simp] theorem State.setOperand1_op2 (p : Word) : (s.setOperand1 p).op2 = s.op2 := rfl
@[simp] theorem State.setOperand1_ctrl (p : Word) : (s.setOperand1 p).ctrl = s.ctrl := rfl
@[simp] theorem State.setOperand1_result (p : Word) : (s.setOperand1 p).result = s.result := rfl

/-! ## `setOperand2` -/

@[simp] theorem State.setOperand2_regs (p : Word) : (s.setOperand2 p).regs = s.regs := rfl
@[simp] theorem State.setOperand2_index (p : Word) : (s.setOperand2 p).index = s.index := rfl
@[simp] theorem State.setOperand2_pc (p : Word) : (s.setOperand2 p).pc = s.pc := rfl
@[simp] theorem State.setOperand2_ir (p : Word) : (s.setOperand2 p).ir = s.ir := rfl
@[simp] theorem State.setOperand2_msr (p : Word) : (s.setOperand2 p).msr = s.msr := rfl
@[simp] theorem State.setOperand2_mfr (p : Word) : (s.setOperand2 p).mfr = s.mfr := rfl
@[simp] theorem State.setOperand2_cc (p : Word) : (s.setOperand2 p).cc = s.cc := rfl
@[simp] theorem State.setOperand2_mar (p : Word) : (s.setOperand2 p).mar = s.mar := rfl
@[simp] theorem State.setOperand2_mbr (p : Word) : (s.setOperand2 p).mbr = s.mbr := rfl
@[simp] theorem State.setOperand2_mem (p : Word) : (s.setOperand2 p).mem = s.mem := rfl
@[simp] theorem State.setOperand2_top (p : Word) : (s.setOperand2 p).top = s.top := rfl
@[simp] theorem State.setOperand2_micro (p : Word) : (s.setOperand2 p).micro = s.micro := rfl
@[simp] theorem State.setOperand2_dec (p : Word) : (s.setOperand2 p).dec = s.dec := rfl
@[simp] theorem State.setOperand2_ea (p : Word) : (s.setOperand2 p).ea = s.ea := rfl
@[simp] theorem State.setOperand2_nextPC (p : Word) : (s.setOperand2 p).nextPC = s.nextPC := rfl
@[simp] theorem State.setOperand2_halted (p : Word) : (s.setOperand2 p).halted = s.halted := rfl
@[simp] theorem State.setOperand2_fault (p : Word) : (s.setOperand2 p).fault = s.fault := rfl
@[simp] theorem State.setOperand2_mstate (p : Word) : (s.setOperand2 p).mstate = s.mstate := rfl
@[simp] theorem State.setOperand2_astate (p : Word) : (s.setOperand2 p).astate = s.astate := rfl
@[simp] theorem State.setOperand2_op1 (p : Word) : (s.setOperand2 p).op1 = s.op1 := rfl
@[simp] theorem State.setOperand2_op2 (p : Word) : (s.setOperand2 p).op2 = some p := rfl
@[simp] theorem State.setOperand2_ctrl (p : Word) : (s.setOperand2 p).ctrl = s.ctrl := rfl
@[simp] theorem State.setOperand2_result (p : Word) : (s.setOperand2 p).result = s.result := rfl

/-! ## `setControl` -/

@[simp] theorem State.setControl_regs (c : AluControl) : (s.setControl c).regs = s.regs := rfl
@[simp] theorem State.setControl_index (c : AluControl) : (s.setControl c).index = s.index := rfl
@[simp] theorem State.setControl_pc (c : AluControl) : (s.setControl c).pc = s.pc := rfl
@[simp] theorem State.setControl_ir (c : AluControl) : (s.setControl c).ir = s.ir := rfl
@[simp] theorem State.setControl_msr (c : AluControl) : (s.setControl c).msr = s.msr := rfl
@[simp] theorem State.setControl_mfr (c : AluControl) : (s.setControl c).mfr = s.mfr := rfl
@[simp] theorem State.setControl_cc (c : AluControl) : (s.setControl c).cc = s.cc := rfl
@[simp] theorem State.setControl_mar (c : AluControl) : (s.setControl c).mar = s.mar := rfl
@[simp] theorem State.setControl_mbr (c : AluControl) : (s.setControl c).mbr = s.mbr := rfl
@[simp] theorem State.setControl_mem (c : AluControl) : (s.setControl c).mem = s.mem := rfl
@[simp] theorem State.setControl_top (c : AluControl) : (s.setControl c).top = s.top := rfl
@[simp] theorem State.setControl_micro (c : AluControl) : (s.setControl c).micro = s.micro := rfl
@[simp] theorem State.setControl_dec (c : AluControl) : (s.setControl c).dec = s.dec := rfl
@[simp] theorem State.setControl_ea (c : AluControl) : (s.setControl c).ea = s.ea := rfl
@[simp] theorem State.setControl_nextPC (c : AluControl) : (s.setControl c).nextPC = s.nextPC := rfl
@[simp] theorem State.setControl_halted (c : AluControl) : (s.setControl c).halted = s.halted := rfl
@[simp] theorem State.setControl_fault (c : AluControl) : (s.setControl c).fault = s.fault := rfl
@[simp] theorem State.setControl_mstate (c : AluControl) : (s.setControl c).mstate = s.mstate := rfl
@[simp] theorem State.setControl_astate (c : AluControl) : (s.setControl c).astate = s.astate := rfl
@[simp] theorem State.setControl_op1 (c : AluControl) : (s.setControl c).op1 = s.op1 := rfl
@[simp] theorem State.setControl_op2 (c : AluControl) : (s.setControl c).op2 = s.op2 := rfl
@[simp] theorem State.setControl_ctrl (c : AluControl) : (s.setControl c).ctrl = some c := rfl
@[simp] theorem State.setControl_result (c : AluControl) : (s.setControl c).result = s.result := rfl

/-! ## `signalReady` -/

@[simp] theorem State.signalReady_regs : s.signalReady.regs = s.regs := rfl
@[simp] theorem State.signalReady_index : s.signalReady.index = s.index := rfl
@[simp] theorem State.signalReady_pc : s.signalReady.pc = s.pc := rfl
@[simp] theorem State.signalReady_ir : s.signalReady.ir = s.ir := rfl
@[simp] theorem State.signalReady_msr : s.signalReady.msr = s.msr := rfl
@[simp] theorem State.signalReady_mfr : s.signalReady.mfr = s.mfr := rfl
@[simp] theorem State.signalReady_cc : s.signalReady.cc = s.cc := rfl
@[simp] theorem State.signalReady_mar : s.signalReady.mar = s.mar := rfl
@[simp] theorem State.signalReady_mbr : s.signalReady.mbr = s.mbr := rfl
@[simp] theorem State.signalReady_mem : s.signalReady.mem = s.mem := rfl
@[simp] theorem State.signalReady_top : s.signalReady.top = s.top := rfl
@[simp] theorem State.signalReady_micro : s.signalReady.micro = s.micro := rfl
@[simp] theorem State.signalReady_dec : s.signalReady.dec = s.dec := rfl
@[simp] theorem State.signalReady_ea : s.signalReady.ea = s.ea := rfl
@[simp] theorem State.signalReady_nextPC : s.signalReady.nextPC = s.nextPC := rfl
@[simp] theorem State.signalReady_halted : s.signalReady.halted = s.halted := rfl
@[simp] theorem State.signalReady_fault : s.signalReady.fault = s.fault := rfl
@[simp] theorem State.signalReady_mstate : s.signalReady.mstate = s.mstate := rfl
@[simp] theorem State.signalReady_astate : s.signalReady.astate = .startComputation := rfl
@[simp] theorem State.signalReady_op1 : s.signalReady.op1 = s.op1 := rfl
@[simp] theorem State.signalReady_op2 : s.signalReady.op2 = s.op2 := rfl
@[simp] theorem State.signalReady_ctrl : s.signalReady.ctrl = s.ctrl := rfl
@[simp] theorem State.signalReady_result : s.signalReady.result = s.result := rfl

end Updates

/-! ## General and index registers -/

@[simp] theorem GeneralRegs.get_set_same (g : GeneralRegs) (i : Fin 4) (v : Word) : (g.set i v).get i = v := by
  fin_cases i <;> rfl

theorem GeneralRegs.get_set_other (g : GeneralRegs) (i j : Fin 4) (v : Word) (h : j ≠ i) :
    (g.set i v).get j = g.get j := by
  fin_cases i <;> fin_cases j <;> first | rfl | exact absurd rfl h

theorem IndexRegs.get_set_same (x : IndexRegs) (i : Fin 4) (v : Addr) (h : i ≠ 0) : (x.set i v).get i = some v := by
  fin_cases i <;> first | rfl | exact absurd rfl h

theorem IndexRegs.get_set_other (x : IndexRegs) (i j : Fin 4) (v : Addr) (h : j ≠ i) :
    (x.set i v).get j = x.get j := by
  fin_cases i <;> fin_cases j <;> first | rfl | exact absurd rfl h

@[simp] theorem IndexRegs.get_zero (x : IndexRegs) : x.get 0 = none := rfl

end Sys2Proof.Machine
end

