-- ==== Sys2Proof/Laws/Memory.lean ====
section
/-!
SUPPORT. The store: a read after a write, and the canonical form of memory, which every memory operation keeps.
-/

namespace Sys2Proof.Machine

open Sys2Proof

theorem inRange_iff (a : Nat) : inRange a = true ↔ a < 2048 := by
  rw [inRange, bankOf, decide_eq_true_iff]
  omega

/-- A list in canonical form above `low` lists nothing below it. -/
theorem lookupCell_of_lt {low a : Nat} (c : List (Nat × Word)) (h : cellsWf low c = true) (ha : a < low) :
    lookupCell a c = unlistedWord := by
  induction c generalizing low with
  | nil => rfl
  | cons p rest ih =>
    obtain ⟨b, v⟩ := p
    simp only [cellsWf, Bool.and_eq_true, decide_eq_true_eq] at h
    simp only [lookupCell]
    rw [if_neg (by omega)]
    exact ih h.2 (by omega)

theorem cellsWf_mono {low low' : Nat} (c : List (Nat × Word)) (h : cellsWf low c = true) (hl : low' ≤ low) :
    cellsWf low' c = true := by
  cases c with
  | nil => rfl
  | cons p rest =>
    obtain ⟨b, v⟩ := p
    simp only [cellsWf, Bool.and_eq_true, decide_eq_true_eq] at h ⊢
    exact ⟨⟨⟨by omega, h.1.1.2⟩, h.1.2⟩, h.2⟩

theorem putCell_keeps_wf {low a : Nat} (v : Word) (c : List (Nat × Word)) (h : cellsWf low c = true) (hl : low ≤ a)
    (hr : inRange a = true) : cellsWf low (putCell a v c) = true := by
  induction c generalizing low with
  | nil =>
    simp only [putCell]
    split
    · rfl
    · simp_all [cellsWf]
  | cons p rest ih =>
    obtain ⟨b, u⟩ := p
    have h' := h
    simp only [cellsWf, Bool.and_eq_true, decide_eq_true_eq] at h'
    obtain ⟨⟨⟨hlb, hrb⟩, hu⟩, hrest⟩ := h'
    simp only [putCell]
    split
    · next hab =>
      split
      · exact h
      · next hv =>
        have hb : a + 1 ≤ b := by omega
        simp [cellsWf, hl, hr, hv, hb, hrb, hu, hrest]
    · next hab =>
      split
      · next heq =>
        subst heq
        split
        · exact cellsWf_mono rest hrest (by omega)
        · next hv => simp [cellsWf, hl, hr, hv, hrest]
      · next hne =>
        have := ih hrest (by omega)
        simp [cellsWf, hlb, hrb, hu, this]

/-- Writing a cell keeps the canonical form. -/
theorem Memory.write_keeps_wf (m : Memory) (a : Nat) (v : Word) (h : m.wf = true) (hr : inRange a = true) :
    (m.write a v).wf = true :=
  putCell_keeps_wf v m.cells h (Nat.zero_le a) hr

theorem lookupCell_putCell {low : Nat} (a b : Nat) (v : Word) (c : List (Nat × Word)) (h : cellsWf low c = true) :
    lookupCell b (putCell a v c) = if b = a then v else lookupCell b c := by
  induction c generalizing low with
  | nil =>
    simp only [putCell]
    split
    · next hv => simp [lookupCell, hv]
    · simp [lookupCell]
  | cons p rest ih =>
    obtain ⟨e, u⟩ := p
    simp only [cellsWf, Bool.and_eq_true, decide_eq_true_eq] at h
    simp only [putCell]
    split
    · next hae =>
      split
      · next hv =>
        by_cases hb : b = a
        · subst hb
          simp only [lookupCell, if_true]
          rw [if_neg (by omega), lookupCell_of_lt rest h.2 (by omega), hv]
        · simp [hb]
      · simp [lookupCell]
    · next hae =>
      split
      · next heq =>
        subst heq
        split
        · next hv =>
          by_cases hb : b = a
          · subst hb
            rw [lookupCell_of_lt rest h.2 (by omega), if_pos rfl, hv]
          · simp [lookupCell, hb]
        · by_cases hb : b = a <;> simp [lookupCell, hb]
      · next hne =>
        simp only [lookupCell]
        by_cases hb : b = e
        · subst hb
          rw [if_pos rfl, if_neg (fun hba => hne hba.symm), if_pos rfl]
        · rw [if_neg hb, if_neg hb, ih h.2]

/-- A read after a write: the written word at the written address, the old word anywhere else. -/
theorem Memory.read_write (m : Memory) (a b : Nat) (v : Word) (h : m.wf = true) :
    (m.write a v).read b = if b = a then v else m.read b :=
  lookupCell_putCell a b v m.cells h

theorem State.reset_mem_wf : State.reset.mem.wf = true := by decide

/-- The memory phase keeps the canonical form. -/
theorem memoryPhase_keeps_wf (s s' : State) (h : memoryPhase s = .done s') (hw : s.mem.wf = true) :
    s'.mem.wf = true := by
  unfold memoryPhase at h
  split at h
  · split at h
    · cases h; exact hw
    · cases h
  · split at h
    · next hr => cases h; exact Memory.write_keeps_wf _ _ _ hw hr
    · cases h
  · cases h; exact hw
  · cases h; exact hw
  · cases h; exact hw

/-- The engineering interface keeps the canonical form. -/
theorem engineerSet_keeps_wf (s : State) (a : Nat) (n : Int) (hw : s.mem.wf = true) :
    (s.engineerSet a n).2.mem.wf = true := by
  unfold State.engineerSet hostConstruct
  split
  · next hr =>
    split
    · exact Memory.write_keeps_wf _ _ _ hw hr
    · exact hw
  · exact hw

/-- Placing the next instruction's word keeps the canonical form. -/
theorem withFetchWord_keeps_wf (s : State) (nbits w : Nat) (hw : s.mem.wf = true) :
    (s.withFetchWord nbits w).mem.wf = true := by
  refine Memory.write_keeps_wf _ _ _ hw ?_
  split
  · assumption
  · decide

end Sys2Proof.Machine
end

