-- ==== Sys2Proof/Laws/Ops.lean ====
section
/-!
SUPPORT. One lemma per shared operation that says what it can do; the proofs cite these instead of unfolding.
-/

namespace Sys2Proof.Machine

open Sys2Proof

/-! ## Construction -/

theorem construct_nat_ok {w n : Nat} (hn : n < 2 ^ w) : construct w (n : Int) = .ok (BitVec.ofNat w n) := by
  have h1 : lowestLegal w ≤ (n : Int) := by
    have : (0 : Int) < 2 ^ (w - 1) := by positivity
    unfold lowestLegal
    omega
  have h2 : (n : Int) ≤ highestLegal w := by
    have : (n : Int) < 2 ^ w := by exact_mod_cast hn
    unfold highestLegal
    omega
  rw [construct, if_pos ⟨h1, h2⟩]
  simp [trunc]

theorem construct_nat_error {w n : Nat} (hn : 2 ^ w ≤ n) : construct w (n : Int) = .error (.construction w n) := by
  have : ¬((n : Int) ≤ highestLegal w) := by
    have : (2 : Int) ^ w ≤ n := by exact_mod_cast hn
    unfold highestLegal
    omega
  rw [construct, if_neg (fun h => this h.2)]

/-- A construction either gives the truncated integer or the error that names it. -/
theorem construct_cases (w : Nat) (n : Int) :
    construct w n = .ok (trunc w n) ∨ construct w n = .error (.construction w n) := by
  unfold construct
  split
  · exact .inl rfl
  · exact .inr rfl

theorem orRaise_ok {α : Type} (v : α) (k : α → PhaseResult) : orRaise (.ok v) k = k v := rfl

theorem orRaise_error {α : Type} (e : FaultKind) (k : α → PhaseResult) : orRaise (.error e) k = .raise e := rfl

/-- Going on after a construction happens only where it succeeds. -/
theorem orRaise_done {α : Type} {c : Except FaultKind α} {k : α → PhaseResult} {s : State}
    (h : orRaise c k = .done s) : ∃ v, c = .ok v ∧ k v = .done s := by
  cases c with
  | ok v => exact ⟨v, rfl, h⟩
  | error e => cases h

/-! ## Requests -/

theorem setMAR_of_busy (s : State) (a : Int) (h : s.mstate.busy = true) : s.setMAR a = .refused := by
  simp [State.setMAR, h]

theorem setMAR_of_nat {s : State} {a : Nat} (h : s.mstate.busy = false) (ha : a < 8192) :
    s.setMAR a = .accepted { s with mar := BitVec.ofNat 13 a, mstate := .preFetch } := by
  have : construct 13 (a : Int) = .ok (BitVec.ofNat 13 a) := construct_nat_ok ha
  simp [State.setMAR, h, this]

theorem setMAR_too_wide {s : State} {a : Nat} (h : s.mstate.busy = false) (ha : 8192 ≤ a) :
    s.setMAR a = .failed (.construction 13 a) := by
  have : construct 13 (a : Int) = .error (.construction 13 a) := construct_nat_error ha
  simp [State.setMAR, h, this]

theorem setMBR_of_idle {s : State} (p : Word) (h : s.mstate.busy = false) :
    s.setMBR p = .accepted { s with mbr := p, mstate := .preStore } := by
  simp [State.setMBR, h]

/-- If `setMAR` accepts, the unit was not busy, and MAR and `mstate` are all that changes. -/
theorem setMAR_accepted {s s' : State} {a : Int} (h : s.setMAR a = .accepted s') :
    s.mstate.busy = false ∧ ∃ v, construct 13 a = .ok v ∧ s' = { s with mar := v, mstate := .preFetch } := by
  unfold State.setMAR at h
  split at h
  · cases h
  · next hb =>
    split at h
    · next v hv =>
      cases h
      exact ⟨by simpa using hb, v, hv, rfl⟩
    · cases h

/-- If `setMBR` accepts, the unit was not busy, and MBR and `mstate` are all that changes. -/
theorem setMBR_accepted {s s' : State} {p : Word} (h : s.setMBR p = .accepted s') :
    s.mstate.busy = false ∧ s' = { s with mbr := p, mstate := .preStore } := by
  unfold State.setMBR at h
  split at h
  · cases h
  · next hb => cases h; exact ⟨by simpa using hb, rfl⟩

/-! ## The memory phase -/

/-- What a memory phase that raises nothing does. -/
theorem memoryPhase_done {s s' : State} (h : memoryPhase s = .done s') :
    (s.mstate = .preFetch ∧ s.mar.toNat < 2048 ∧ s' = { s with mbr := s.mem.read (s.mar.toNat), mstate := .fetch }) ∨
    (s.mstate = .preStore ∧ s.mar.toNat < 2048 ∧ s' = { s with mem := s.mem.write (s.mar.toNat) s.mbr, mstate := .store }) ∨
    (s.mstate.busy = true ∧ s' = { s with mstate := .none }) ∨ (s.mstate = .none ∧ s' = s) := by
  unfold memoryPhase at h
  split at h
  · next hm =>
    split at h
    · next hr => cases h; exact .inl ⟨hm, (inRange_iff _).1 hr, rfl⟩
    · cases h
  · next hm =>
    split at h
    · next hr => cases h; exact .inr (.inl ⟨hm, (inRange_iff _).1 hr, rfl⟩)
    · cases h
  · next hm => cases h; exact .inr (.inr (.inl ⟨by simp [hm, MemState.busy], rfl⟩))
  · next hm => cases h; exact .inr (.inr (.inl ⟨by simp [hm, MemState.busy], rfl⟩))
  · next hm => cases h; exact .inr (.inr (.inr ⟨hm, rfl⟩))

/-- A memory phase raises only AddressOutOfRangeError, for a pending access whose MAR names no cell. -/
theorem memoryPhase_raise {s : State} {k : FaultKind} (h : memoryPhase s = .raise k) :
    (s.mstate = .preFetch ∨ s.mstate = .preStore) ∧ 2048 ≤ s.mar.toNat ∧ k = .addressOutOfRange (s.mar.toNat) := by
  unfold memoryPhase at h
  split at h
  · next hm =>
    split at h
    · cases h
    · next hr =>
      cases h
      exact ⟨.inl hm, by simpa using fun hlt => hr ((inRange_iff _).2 hlt), rfl⟩
  · next hm =>
    split at h
    · cases h
    · next hr =>
      cases h
      exact ⟨.inr hm, by simpa using fun hlt => hr ((inRange_iff _).2 hlt), rfl⟩
  · cases h
  · cases h
  · cases h

theorem memoryPhase_has_rule (s : State) : memoryPhase s ≠ .noRule := by
  unfold memoryPhase
  repeat' split
  all_goals simp

/-! ## The ALU -/

/-- What an ALU phase that raises nothing does. -/
theorem aluPhase_done {s s' : State} (h : aluPhase s = .done s') :
    (s.astate = .none ∧ s' = s) ∨ (s.astate = .finished ∧ s' = { s with astate := .none, result := none }) ∨
    (s.astate = .startComputation ∧ ∃ a b c r, s.op1 = some a ∧ s.op2 = some b ∧ s.ctrl = some c ∧
      aluCompute c a b = .ok r ∧ s' = s.storeResult r.1 r.2) := by
  unfold aluPhase at h
  split at h
  · next hs =>
    split at h
    · next a b c ha hb hc =>
      unfold orRaise at h
      split at h
      · next r hr =>
        cases h
        exact .inr (.inr ⟨hs, a, b, c, r, ha, hb, hc, hr, rfl⟩)
      · cases h
    · cases h
  · next hs => cases h; exact .inr (.inl ⟨hs, rfl⟩)
  · next hs => cases h; exact .inl ⟨hs, rfl⟩

theorem aluPhase_has_rule (s : State) : aluPhase s ≠ .noRule := by
  unfold aluPhase orRaise
  repeat' split
  all_goals simp

/-! ## Completion and jumps -/

theorem complete_of_jump {s : State} {p : Addr} (h : s.nextPC = some p) : s.complete = .done (s.finishAt p) := by
  simp [State.complete, h]

theorem complete_of_no_target {s : State} (h : s.nextPC = none) :
    s.complete = orRaise (construct 13 (s.pc.toNat + 1)) fun p => .done (s.finishAt p) := by
  simp only [State.complete, h]

theorem complete_of_no_jump {s : State} (h : s.nextPC = none) (hp : s.pc.toNat < 8191) :
    s.complete = .done (s.finishAt (BitVec.ofNat 13 (s.pc.toNat + 1))) := by
  have hc : construct 13 ((s.pc.toNat + 1 : Nat) : Int) = .ok (BitVec.ofNat 13 (s.pc.toNat + 1)) :=
    construct_nat_ok (by omega)
  rw [Nat.cast_add, Nat.cast_one] at hc
  rw [complete_of_no_target h, hc]
  rfl

/-- A completion that raises nothing goes back to FETCH with PC at the jump's target or at PC + 1. -/
theorem complete_done {s s' : State} (h : s.complete = .done s') :
    ∃ p, s' = s.finishAt p ∧ (s.nextPC = some p ∨ (s.nextPC = none ∧ construct 13 (s.pc.toNat + 1) = .ok p)) := by
  cases hn : s.nextPC with
  | some p =>
    rw [complete_of_jump hn] at h
    cases h
    exact ⟨p, rfl, .inl rfl⟩
  | none =>
    rw [complete_of_no_target hn] at h
    obtain ⟨p, hp, he⟩ := orRaise_done h
    cases he
    exact ⟨p, rfl, .inr ⟨rfl, hp⟩⟩

theorem jumpTo_of_fits {s : State} {t : Nat} (k : State → PhaseResult) (ht : t < 8192) :
    s.jumpTo t k = k { s with nextPC := some (BitVec.ofNat 13 t) } := by
  rw [State.jumpTo, construct_nat_ok (by omega)]
  rfl

theorem jumpTo_too_wide {s : State} {t : Nat} (k : State → PhaseResult) (ht : 8192 ≤ t) :
    s.jumpTo t k = .raise (.construction 13 t) := by
  rw [State.jumpTo, construct_nat_error (by omega)]
  rfl

/-! ## The tick -/

/-- A tick after a halt or a fault changes nothing. -/
theorem tickWith_stopped {cu : State → PhaseResult} {s : State} (h : s.stopped = true) : tickWith cu s = .next s := by
  simp [tickWith, h]

/-- A tick whose three phases raise nothing. -/
theorem tickWith_done {cu : State → PhaseResult} {s s1 s2 s3 : State} (h : s.stopped = false) (h1 : cu s = .done s1)
    (h2 : aluPhase s1 = .done s2) (h3 : memoryPhase s2 = .done s3) : tickWith cu s = .next s3 := by
  simp [tickWith, h, h1, h2, h3, PhaseResult.andThen, ioPhase]

/-- A tick whose control unit raises a fault: the microstep has no effect and no later phase runs. -/
theorem tickWith_raise {cu : State → PhaseResult} {s : State} {k : FaultKind} (h : s.stopped = false)
    (h1 : cu s = .raise k) : tickWith cu s = .next (s.takeFault k .controlUnit) := by
  simp [tickWith, h, h1, PhaseResult.andThen]

/-- A tick whose memory phase raises a fault: the control unit's and the ALU's actions stand. -/
theorem tickWith_memory_raise {cu : State → PhaseResult} {s s1 s2 : State} {k : FaultKind} (h : s.stopped = false)
    (h1 : cu s = .done s1) (h2 : aluPhase s1 = .done s2) (h3 : memoryPhase s2 = .raise k) :
    tickWith cu s = .next (s2.takeFault k .memory) := by
  simp [tickWith, h, h1, h2, h3, PhaseResult.andThen]

/-- Everything a tick that answers a next state can have done. -/
theorem tickWith_next {cu : State → PhaseResult} {s t : State} (h : tickWith cu s = .next t) :
    (s.stopped = true ∧ t = s) ∨
    (s.stopped = false ∧ ∃ k, cu s = .raise k ∧ t = s.takeFault k .controlUnit) ∨
    (s.stopped = false ∧ ∃ s1 k, cu s = .done s1 ∧ aluPhase s1 = .raise k ∧ t = s1.takeFault k .alu) ∨
    (s.stopped = false ∧ ∃ s1 s2 k, cu s = .done s1 ∧ aluPhase s1 = .done s2 ∧ memoryPhase s2 = .raise k ∧
      t = s2.takeFault k .memory) ∨
    (s.stopped = false ∧ ∃ s1 s2, cu s = .done s1 ∧ aluPhase s1 = .done s2 ∧ memoryPhase s2 = .done t) := by
  unfold tickWith at h
  split at h
  · next hs => cases h; exact .inl ⟨hs, rfl⟩
  · next hs =>
    have hs' : s.stopped = false := by simpa using hs
    cases h1 : cu s with
    | noRule => simp [h1, PhaseResult.andThen] at h
    | raise k =>
      simp only [h1, PhaseResult.andThen] at h
      cases h
      exact .inr (.inl ⟨hs', k, rfl, rfl⟩)
    | done s1 =>
      cases h2 : aluPhase s1 with
      | noRule => simp [h1, h2, PhaseResult.andThen] at h
      | raise k =>
        simp only [h1, h2, PhaseResult.andThen] at h
        cases h
        exact .inr (.inr (.inl ⟨hs', s1, k, rfl, h2, rfl⟩))
      | done s2 =>
        cases h3 : memoryPhase s2 with
        | noRule => simp [h1, h2, h3, PhaseResult.andThen] at h
        | raise k =>
          simp only [h1, h2, h3, PhaseResult.andThen] at h
          cases h
          exact .inr (.inr (.inr (.inl ⟨hs', s1, s2, k, rfl, h2, h3, rfl⟩)))
        | done s3 =>
          simp only [h1, h2, h3, PhaseResult.andThen, ioPhase] at h
          cases h
          exact .inr (.inr (.inr (.inr ⟨hs', s1, s2, rfl, h2, h3⟩)))

/-! ## Ticks to an instruction's end -/

/-- A tick that does not end the instruction. -/
theorem toEnd_goes_on {tick : State → Host.Outcome State Fault Refusal} {n : Nat} {s s' : State}
    (h : tick s = .next s') (he : instructionEnded s s' = false) : toEnd tick (n + 1) s = toEnd tick n s' := by
  simp [toEnd, h, he]

/-- The tick that ends the instruction. -/
theorem toEnd_ends {tick : State → Host.Outcome State Fault Refusal} {n : Nat} {s s' : State}
    (h : tick s = .next s') (he : instructionEnded s s' = true) : toEnd tick (n + 1) s = .next s' := by
  simp [toEnd, h, he]

/-- A tick whose phases raise nothing and that does not end the instruction. -/
theorem toEnd_tick_goes_on (cu : State → PhaseResult) {n : Nat} {s s1 s2 s3 : State} (hs : s.stopped = false)
    (h1 : cu s = .done s1) (h2 : aluPhase s1 = .done s2) (h3 : memoryPhase s2 = .done s3)
    (he : instructionEnded s s3 = false) : toEnd (tickWith cu) (n + 1) s = toEnd (tickWith cu) n s3 :=
  toEnd_goes_on (tickWith_done hs h1 h2 h3) he

/-- A tick whose phases raise nothing and that ends the instruction. -/
theorem toEnd_tick_ends (cu : State → PhaseResult) {n : Nat} {s s1 s2 s3 : State} (hs : s.stopped = false)
    (h1 : cu s = .done s1) (h2 : aluPhase s1 = .done s2) (h3 : memoryPhase s2 = .done s3)
    (he : instructionEnded s s3 = true) : toEnd (tickWith cu) (n + 1) s = .next s3 :=
  toEnd_ends (tickWith_done hs h1 h2 h3) he

end Sys2Proof.Machine
end

