-- ==== Sys2Proof/Laws/Cycle.lean ====
section
/-!
SUPPORT. What the ticks of FETCH and DECODE do, said once: the state they leave is `State.afterFetch` and
`State.atExecute`.
-/

namespace Sys2Proof.Machine

open Sys2Proof

theorem indexValue_lt (s : State) (x : Fin 4) : s.indexValue x < 8192 := by
  unfold State.indexValue
  split
  · next v _ => exact v.isLt
  · decide

theorem baseAddress_lt (s : State) (f : Fields) : s.baseAddress f < 8448 := by
  have h1 := indexValue_lt s f.xfi
  have h2 := f.addr.isLt
  unfold State.baseAddress
  omega

/-- The effective address fits 20 bits in every mode, so that LDA's construction cannot fail (60_exceptions.md R128). -/
theorem effectiveAddress_lt (s : State) (f : Fields) : s.effectiveAddress f < 2 ^ 20 := by
  have h1 := baseAddress_lt s f
  unfold State.effectiveAddress
  split
  · exact BitVec.isLt _
  · omega

/-! ## What decoding leaves unchanged: everything but MAR and MBR -/

@[simp] theorem State.afterDecode_regs (s : State) (f : Fields) : (s.afterDecode f).regs = s.regs := by
  unfold State.afterDecode; split <;> rfl

@[simp] theorem State.afterDecode_index (s : State) (f : Fields) : (s.afterDecode f).index = s.index := by
  unfold State.afterDecode; split <;> rfl

@[simp] theorem State.afterDecode_pc (s : State) (f : Fields) : (s.afterDecode f).pc = s.pc := by
  unfold State.afterDecode; split <;> rfl

@[simp] theorem State.afterDecode_ir (s : State) (f : Fields) : (s.afterDecode f).ir = s.ir := by
  unfold State.afterDecode; split <;> rfl

@[simp] theorem State.afterDecode_msr (s : State) (f : Fields) : (s.afterDecode f).msr = s.msr := by
  unfold State.afterDecode; split <;> rfl

@[simp] theorem State.afterDecode_mfr (s : State) (f : Fields) : (s.afterDecode f).mfr = s.mfr := by
  unfold State.afterDecode; split <;> rfl

@[simp] theorem State.afterDecode_cc (s : State) (f : Fields) : (s.afterDecode f).cc = s.cc := by
  unfold State.afterDecode; split <;> rfl

@[simp] theorem State.afterDecode_mem (s : State) (f : Fields) : (s.afterDecode f).mem = s.mem := by
  unfold State.afterDecode; split <;> rfl

@[simp] theorem State.afterDecode_top (s : State) (f : Fields) : (s.afterDecode f).top = s.top := by
  unfold State.afterDecode; split <;> rfl

@[simp] theorem State.afterDecode_micro (s : State) (f : Fields) : (s.afterDecode f).micro = s.micro := by
  unfold State.afterDecode; split <;> rfl

@[simp] theorem State.afterDecode_dec (s : State) (f : Fields) : (s.afterDecode f).dec = s.dec := by
  unfold State.afterDecode; split <;> rfl

@[simp] theorem State.afterDecode_ea (s : State) (f : Fields) : (s.afterDecode f).ea = s.ea := by
  unfold State.afterDecode; split <;> rfl

@[simp] theorem State.afterDecode_nextPC (s : State) (f : Fields) : (s.afterDecode f).nextPC = s.nextPC := by
  unfold State.afterDecode; split <;> rfl

@[simp] theorem State.afterDecode_halted (s : State) (f : Fields) : (s.afterDecode f).halted = s.halted := by
  unfold State.afterDecode; split <;> rfl

@[simp] theorem State.afterDecode_fault (s : State) (f : Fields) : (s.afterDecode f).fault = s.fault := by
  unfold State.afterDecode; split <;> rfl

@[simp] theorem State.afterDecode_mstate (s : State) (f : Fields) : (s.afterDecode f).mstate = s.mstate := by
  unfold State.afterDecode; split <;> rfl

@[simp] theorem State.afterDecode_astate (s : State) (f : Fields) : (s.afterDecode f).astate = s.astate := by
  unfold State.afterDecode; split <;> rfl

@[simp] theorem State.afterDecode_op1 (s : State) (f : Fields) : (s.afterDecode f).op1 = s.op1 := by
  unfold State.afterDecode; split <;> rfl

@[simp] theorem State.afterDecode_op2 (s : State) (f : Fields) : (s.afterDecode f).op2 = s.op2 := by
  unfold State.afterDecode; split <;> rfl

@[simp] theorem State.afterDecode_ctrl (s : State) (f : Fields) : (s.afterDecode f).ctrl = s.ctrl := by
  unfold State.afterDecode; split <;> rfl

@[simp] theorem State.afterDecode_result (s : State) (f : Fields) : (s.afterDecode f).result = s.result := by
  unfold State.afterDecode; split <;> rfl

/-- The ticks of DECODE, for an opcode other than those of AIR and SIR and a decode read that names a cell: at most three,
after which the control unit is at EXECUTE µ0. -/
theorem decode_reaches_execute (op : BitVec 6) (f : Fields) (exe : State → PhaseResult) (s : State) (h : s.Fetched)
    (hair : op ≠ Config.opcodeMap .AIR) (hsir : op ≠ Config.opcodeMap .SIR) (hr : s.DecodeReadable f) :
    ∃ k, k ≤ 3 ∧ ∀ n, toEnd (tickWith (instructionControlUnit op f exe)) (n + k) s =
      toEnd (tickWith (instructionControlUnit op f exe)) n
        { s.afterDecode f with
          top := .execute, micro := 0, dec := some { opcode := op, fields := f, mode := eaMode f },
          ea := some (s.effectiveAddress f) } := by
  obtain ⟨hh, hf, ht, hm, hd, he, hn, hms, ha, h1, h2, hc, hres⟩ := h
  obtain ⟨regs, index, pc, ir, msr, mfr, cc, mar, mbr, mem, top, micro, dec, ea, nextPC, halted, fault, mstate, astate,
    op1, op2, ctrl, result⟩ := s
  simp only at hh hf ht hm hd he hn hms ha h1 h2 hc hres
  subst hh hf ht hm hd he hn hms ha h1 h2 hc hres
  cases hi : f.ibit with
  | false =>
    by_cases hx : f.xfi = 0
    · refine ⟨1, by omega, fun n => ?_⟩
      rw [toEnd_tick_goes_on (instructionControlUnit op f exe) rfl
        (by simp [instructionControlUnit, decodeMicrostep, decodeStart, hair, hsir, eaMode, hi, hx]; rfl) rfl rfl rfl]
      simp [State.afterDecode, State.effectiveAddress, State.baseAddress, State.indexValue, State.enter, hi, hx, eaMode]
    · refine ⟨2, by omega, fun n => ?_⟩
      rw [toEnd_tick_goes_on (instructionControlUnit op f exe) rfl
        (by simp [instructionControlUnit, decodeMicrostep, decodeStart, hair, hsir, eaMode, hi, hx]; rfl) rfl rfl rfl]
      rw [toEnd_tick_goes_on (instructionControlUnit op f exe) rfl
        (by simp [instructionControlUnit, decodeMicrostep, State.nextMicro]; rfl) rfl rfl rfl]
      simp [State.afterDecode, State.effectiveAddress, State.baseAddress, State.indexValue, State.enter, hi, hx, eaMode]
  | true =>
    refine ⟨3, by omega, fun n => ?_⟩
    obtain ⟨b, hb⟩ : ∃ b, b = ({ x1 := index.x1, x2 := index.x2, x3 := index.x3 : IndexRegs }.get f.xfi).elim 0
        BitVec.toNat + f.addr.toNat := ⟨_, rfl⟩
    have key : ∀ t : State, t.index = index → t.baseAddress f = b := by
      intro t ht
      subst ht
      rw [hb, State.baseAddress, State.indexValue]
      cases t.index.get f.xfi <;> rfl
    have hlt : b < 2048 := by
      have := hr hi
      rwa [key _ rfl] at this
    have hmar : (BitVec.ofNat 13 b).toNat = b := by
      rw [BitVec.toNat_ofNat, Nat.mod_eq_of_lt (by omega)]
    have hir : inRange (BitVec.ofNat 13 b).toNat = true := by rw [hmar]; exact (inRange_iff b).2 hlt
    by_cases hx : f.xfi = 0
    · have haddr : f.addr.toNat = b := by rw [hb, hx]; exact (Nat.zero_add _).symm
      rw [toEnd_tick_goes_on (instructionControlUnit op f exe) rfl
        (by simp [instructionControlUnit, decodeMicrostep, decodeStart, hair, hsir, eaMode, hi, hx]; rfl) rfl rfl rfl]
      rw [toEnd_tick_goes_on (instructionControlUnit op f exe) rfl
        (by
          simp only [instructionControlUnit, decodeMicrostep, State.nextMicro]
          rw [haddr, setMAR_of_nat rfl (by omega)]
          rfl) rfl (by simp only [memoryPhase]; exact if_pos hir) rfl]
      rw [toEnd_tick_goes_on (instructionControlUnit op f exe) rfl rfl rfl rfl rfl]
      simp only [State.afterDecode, State.effectiveAddress, State.enter, hi, hx, eaMode, hmar, if_true]
      rw [key _ rfl]
    · rw [toEnd_tick_goes_on (instructionControlUnit op f exe) rfl
        (by simp [instructionControlUnit, decodeMicrostep, decodeStart, hair, hsir, eaMode, hi, hx]; rfl) rfl rfl rfl]
      rw [toEnd_tick_goes_on (instructionControlUnit op f exe) rfl
        (by
          simp only [instructionControlUnit, decodeMicrostep, State.nextMicro]
          rw [key _ rfl, setMAR_of_nat rfl (by omega)]
          rfl) rfl (by simp only [memoryPhase]; exact if_pos hir) rfl]
      rw [toEnd_tick_goes_on (instructionControlUnit op f exe) rfl rfl rfl rfl rfl]
      simp only [State.afterDecode, State.effectiveAddress, State.enter, hi, hx, eaMode, hmar, if_true, if_false]
      rw [key _ rfl]

/-- A tick of FETCH that goes on. -/
theorem fetchTicks_tick {n : Nat} {s s' : State} (ht : s.top = .fetch) (hs : s.stopped = false)
    (h : tickWith fetchMicrostep s = .next s') : fetchTicks (n + 1) s = fetchTicks n s' := by
  rw [fetchTicks, if_pos ⟨ht, hs⟩, h]

/-- Past FETCH there is nothing to fetch. -/
theorem fetchTicks_past {n : Nat} {s : State} (ht : s.top ≠ .fetch) : fetchTicks n s = .next s := by
  cases n with
  | zero => rfl
  | succ n => rw [fetchTicks, if_neg fun h => ht h.1]

/-- Fetching at an instruction boundary, from a PC that names a cell: two ticks, which leave `State.afterFetch`. -/
theorem fetch_leaves_afterFetch (s : State) (h : s.Ready) (hp : s.pc.toNat < 2048) :
    fetchInstruction s = .next s.afterFetch := by
  have hm : BitVec.ofNat 13 s.pc.toNat = s.pc := by simp
  obtain ⟨hh, hf, ht, hmi, hd, he, hn, hms, ha, h1, h2, hc, hres⟩ := h
  obtain ⟨regs, index, pc, ir, msr, mfr, cc, mar, mbr, mem, top, micro, dec, ea, nextPC, halted, fault, mstate, astate,
    op1, op2, ctrl, result⟩ := s
  simp only at hh hf ht hmi hd he hn hms ha h1 h2 hc hres hp hm
  subst hh hf ht hmi hd he hn ha h1 h2 hc hres
  rw [fetchInstruction, maxFetchTicks, fetchTicks_tick rfl rfl
    (tickWith_done rfl (by simp only [fetchMicrostep]; rw [setMAR_of_nat hms (by omega), hm]; rfl) rfl
      (by simp only [memoryPhase]; exact if_pos ((inRange_iff _).2 hp)))]
  rw [fetchTicks_tick rfl rfl (tickWith_done rfl rfl rfl rfl)]
  exact fetchTicks_past fun h => by cases h

/-- What fetching leaves is ready to be decoded. -/
theorem afterFetch_fetched {s : State} (h : s.Ready) : s.afterFetch.Fetched := by
  obtain ⟨h1, h2, -, -, h5, h6, h7, -, h9⟩ := h
  exact ⟨h1, h2, rfl, rfl, h5, h6, h7, rfl, h9⟩

end Sys2Proof.Machine
end

