-- ==== Sys2Proof/Laws/Flags.lean ====
section
/-!
SUPPORT. Writing one bit of the condition code writes that bit and keeps the others (10_state.md R25).
-/

namespace Sys2Proof.Machine

open Sys2Proof

/-- CC<j> after CC<i> is made `b`: the new value at `i`, the old one elsewhere. -/
theorem ccBit_ccSet (cc : BitVec 4) (i j : Fin 4) (b : Bool) :
    ccBit (ccSet cc i b) j = if j = i then b else ccBit cc j := by
  have h : ∀ (c : Fin 16) (i j : Fin 4) (b : Bool),
      ccBit (ccSet (BitVec.ofFin c) i b) j = if j = i then b else ccBit (BitVec.ofFin c) j := by decide
  exact h cc.toFin i j b

/-- CC.OVF after it is written. -/
@[simp] theorem ccBit_ccWithOverflow (cc : BitVec 4) (b : Bool) : ccBit (ccWithOverflow cc b) ccOVF = b := by
  rw [ccWithOverflow, ccBit_ccSet, if_pos rfl]

/-- Writing CC.OVF keeps the other bits. -/
theorem ccBit_ccWithOverflow_of_ne (cc : BitVec 4) (b : Bool) {i : Fin 4} (h : i ≠ ccOVF) :
    ccBit (ccWithOverflow cc b) i = ccBit cc i := by
  rw [ccWithOverflow, ccBit_ccSet, if_neg h]

/-- CC.EQ after it is written. -/
@[simp] theorem ccBit_ccWithEqual (cc : BitVec 4) (b : Bool) : ccBit (ccWithEqual cc b) ccEQ = b := by
  rw [ccWithEqual, ccBit_ccSet, if_pos rfl]

/-- Writing CC.EQ keeps the other bits. -/
theorem ccBit_ccWithEqual_of_ne (cc : BitVec 4) (b : Bool) {i : Fin 4} (h : i ≠ ccEQ) :
    ccBit (ccWithEqual cc b) i = ccBit cc i := by
  rw [ccWithEqual, ccBit_ccSet, if_neg h]

/-- CC read as a number (R27). -/
theorem cc_toNat (cc : BitVec 4) :
    cc.toNat = 8 * (ccBit cc ccOVF).toNat + 4 * (ccBit cc ccUNF).toNat + 2 * (ccBit cc ccDVZ).toNat +
      (ccBit cc ccEQ).toNat := by
  have h : ∀ c : Fin 16, (BitVec.ofFin (w := 4) c).toNat =
      8 * (ccBit (BitVec.ofFin c) ccOVF).toNat + 4 * (ccBit (BitVec.ofFin c) ccUNF).toNat +
        2 * (ccBit (BitVec.ofFin c) ccDVZ).toNat + (ccBit (BitVec.ofFin c) ccEQ).toNat := by decide
  exact h cc.toFin

end Sys2Proof.Machine
end

