-- ==== Sys2Proof/Laws/PerInstr.lean ====
section
/-!
SUPPORT. One statement made per instruction: the word of the instruction as the number that the field layout gives
(30_encoding.md R56, R57, R66).
-/

namespace Sys2Proof

/-- The word of an opcode and fields is the sum of the fields, each at its place. -/
theorem packWord_toNat (op : BitVec 6) (f : Fields) :
    (packWord op f).toNat = op.toNat * 2 ^ 14 + f.rfi.val * 2 ^ 12 + f.xfi.val * 2 ^ 10 + f.ibit.toNat * 2 ^ 9 +
      f.tbit.toNat * 2 ^ 8 + f.addr.toNat := by
  have h1 := f.rfi.isLt
  have h2 := f.xfi.isLt
  have h3 := f.ibit.toNat_lt
  have h4 := f.tbit.toNat_lt
  have h5 := f.addr.isLt
  simp only [packWord, BitVec.toNat_append, BitVec.toNat_ofBool, BitVec.toNat_ofFin, Nat.shiftLeft_eq]
  rw [Nat.mul_comm _ (2 ^ 2), Nat.mul_comm _ (2 ^ 2), Nat.mul_comm _ (2 ^ 1), Nat.mul_comm _ (2 ^ 1),
    Nat.mul_comm _ (2 ^ 8)]
  rw [← Nat.two_pow_add_eq_or_of_lt (by omega), ← Nat.two_pow_add_eq_or_of_lt (by omega),
    ← Nat.two_pow_add_eq_or_of_lt (by omega), ← Nat.two_pow_add_eq_or_of_lt (by omega),
    ← Nat.two_pow_add_eq_or_of_lt (by omega)]
  omega

/-- The word of an instruction is `opcode·2^14 + rfi·2^12 + xfi·2^10 + ibit·2^9 + tbit·2^8 + addr` (R57). -/
def Laws.FieldLayout.Statement (i : Instr) : Prop :=
  i.WellFormed →
    (encode i).toNat = (Config.opcodeMap i.mnemonic).toNat * 2 ^ 14 + i.fields.rfi.val * 2 ^ 12 +
      i.fields.xfi.val * 2 ^ 10 + i.fields.ibit.toNat * 2 ^ 9 + i.fields.tbit.toNat * 2 ^ 8 + i.fields.addr.toNat

theorem Laws.FieldLayout.hlt (f : Fields) : Laws.FieldLayout.Statement (.hlt f) := fun _ => packWord_toNat _ f

theorem Laws.FieldLayout.ldr (f : Fields) : Laws.FieldLayout.Statement (.ldr f) := fun _ => packWord_toNat _ f

theorem Laws.FieldLayout.str (f : Fields) : Laws.FieldLayout.Statement (.str f) := fun _ => packWord_toNat _ f

theorem Laws.FieldLayout.lda (f : Fields) : Laws.FieldLayout.Statement (.lda f) := fun _ => packWord_toNat _ f

theorem Laws.FieldLayout.ldx (f : Fields) : Laws.FieldLayout.Statement (.ldx f) := fun _ => packWord_toNat _ f

theorem Laws.FieldLayout.stx (f : Fields) : Laws.FieldLayout.Statement (.stx f) := fun _ => packWord_toNat _ f

theorem Laws.FieldLayout.amr (f : Fields) : Laws.FieldLayout.Statement (.amr f) := fun _ => packWord_toNat _ f

theorem Laws.FieldLayout.smr (f : Fields) : Laws.FieldLayout.Statement (.smr f) := fun _ => packWord_toNat _ f

theorem Laws.FieldLayout.air (f : Fields) : Laws.FieldLayout.Statement (.air f) := fun _ => packWord_toNat _ f

theorem Laws.FieldLayout.sir (f : Fields) : Laws.FieldLayout.Statement (.sir f) := fun _ => packWord_toNat _ f

theorem Laws.FieldLayout.jz (f : Fields) : Laws.FieldLayout.Statement (.jz f) := fun _ => packWord_toNat _ f

theorem Laws.FieldLayout.jne (f : Fields) : Laws.FieldLayout.Statement (.jne f) := fun _ => packWord_toNat _ f

theorem Laws.FieldLayout.jcc (f : Fields) : Laws.FieldLayout.Statement (.jcc f) := fun _ => packWord_toNat _ f

theorem Laws.FieldLayout.jmp (f : Fields) : Laws.FieldLayout.Statement (.jmp f) := fun _ => packWord_toNat _ f

theorem Laws.FieldLayout.jsr (f : Fields) : Laws.FieldLayout.Statement (.jsr f) := fun _ => packWord_toNat _ f

theorem Laws.FieldLayout.rfs (f : Fields) : Laws.FieldLayout.Statement (.rfs f) := fun _ => packWord_toNat _ f

theorem Laws.FieldLayout.sob (f : Fields) : Laws.FieldLayout.Statement (.sob f) := fun _ => packWord_toNat _ f

theorem Laws.FieldLayout.jge (f : Fields) : Laws.FieldLayout.Statement (.jge f) := fun _ => packWord_toNat _ f

theorem Laws.FieldLayout.trr (f : Fields) : Laws.FieldLayout.Statement (.trr f) := fun _ => packWord_toNat _ f

theorem Laws.FieldLayout.and (f : Fields) : Laws.FieldLayout.Statement (.and f) := fun _ => packWord_toNat _ f

theorem Laws.FieldLayout.orr (f : Fields) : Laws.FieldLayout.Statement (.orr f) := fun _ => packWord_toNat _ f

theorem Laws.FieldLayout.not (f : Fields) : Laws.FieldLayout.Statement (.not f) := fun _ => packWord_toNat _ f

theorem Laws.FieldLayout.src (f : Fields) : Laws.FieldLayout.Statement (.src f) := fun _ => packWord_toNat _ f

theorem Laws.FieldLayout.rrc (f : Fields) : Laws.FieldLayout.Statement (.rrc f) := fun _ => packWord_toNat _ f

end Sys2Proof
end

