-- ==== Sys2Proof/Tests/Slice0.lean ====
section
/-!
SUPPORT. The model's own tests. Expected values come from spec/95_test_vectors.md (section named in each comment) or are
worked out by hand from the rule named; the witnesses show that the hypotheses of the statements can be met.
-/

namespace Sys2Proof.Tests

open Sys2Proof Sys2Proof.Machine

/-! ## Helpers -/

/-- The next state of an outcome, if it is one. -/
def nextOf (o : Host.Outcome State Fault Refusal) : Option State :=
  match o with
  | .next t => some t
  | .fault _ | .refused _ => none

/-- A machine after construction with PC, registers, index registers and memory words deposited (70_reset_and_hazards.md
R146). -/
def deposited (pc : Addr) (r : GeneralRegs) (x : IndexRegs) (cells : List (Nat × Word)) : State :=
  { State.reset with pc := pc, regs := r, index := x, mem := { cells := cells } }

/-- The same machine at DECODE µ0, as a fetch leaves it. -/
def fetched (pc : Addr) (r : GeneralRegs) (x : IndexRegs) (cells : List (Nat × Word)) : State :=
  { deposited pc r x cells with top := .decode }

/-- All registers zero. -/
def zeroRegs : GeneralRegs := { r0 := 0, r1 := 0, r2 := 0, r3 := 0 }

/-- All index registers zero. -/
def zeroIndex : IndexRegs := { x1 := 0, x2 := 0, x3 := 0 }

/-- What most tests look at after a step: R0 to R3, PC, CC and whether a fault was taken. -/
structure Seen where
  r0 : Nat
  r1 : Nat
  r2 : Nat
  r3 : Nat
  pc : Nat
  cc : Nat
  faulted : Bool
  deriving DecidableEq, Repr

/-- What is seen after one step. -/
def seen (s : State) : Option Seen :=
  (nextOf (step s)).map fun t =>
    { r0 := t.regs.r0.toNat, r1 := t.regs.r1.toNat, r2 := t.regs.r2.toNat, r3 := t.regs.r3.toNat, pc := t.pc.toNat,
      cc := t.cc.toNat, faulted := t.fault.isSome }

/-- The fault kind after one step. -/
def faultAfter (s : State) : Option FaultKind := (nextOf (step s)).bind fun t => t.fault.map fun r => r.kind

/-- Fields by position: rfi, xfi, I, T, address. -/
def fields (r x : Fin 4) (i t : Bool) (a : BitVec 8) : Fields := { rfi := r, xfi := x, ibit := i, tbit := t, addr := a }

/-- A value, when there is no error. -/
def okOf {ε α : Type} (e : Except ε α) : Option α :=
  match e with
  | .ok a => some a
  | .error _ => none

/-- An error, when there is one. -/
def errorOf {ε α : Type} (e : Except ε α) : Option ε :=
  match e with
  | .ok _ => none
  | .error e => some e

/-! ## WellFormed: one ill-formed term per check (30_encoding.md R56; 90_conflicts.md C4) -/

theorem test_register_field_4_refused : (RawOperands.mk 4 0 0 0 0).error = some .registerField := by decide
theorem test_index_field_4_refused : (RawOperands.mk 0 4 0 0 0).error = some .indexField := by decide
theorem test_indirect_bit_2_refused : (RawOperands.mk 0 0 2 0 0).error = some .indirectBit := by decide
theorem test_trace_bit_2_refused : (RawOperands.mk 0 0 0 2 0).error = some .traceBit := by decide
theorem test_address_256_refused : (RawOperands.mk 0 0 0 0 256).error = some .addressField := by decide
theorem test_immediate_500_refused : errorOf (RawOperands.mk 0 0 0 0 500).toFields = some .addressField := by decide
theorem test_operands_at_their_top_accepted :
    okOf (RawOperands.mk 3 3 1 1 255).toFields = some (fields 3 3 true true 255) := by decide

/-! ## Decoding: one word per instruction, from 95_test_vectors.md, split by hand by the format of R56 -/

theorem test_decode_hlt : okOf (decode 0b00000000011000000101) = some (.hlt (fields 0 1 true false 5)) := by decide
theorem test_decode_ldr : okOf (decode 0b00000111101000000101) = some (.ldr (fields 3 2 true false 5)) := by decide
theorem test_decode_str : okOf (decode 0b00001001001000000111) = some (.str (fields 1 0 true false 7)) := by decide
theorem test_decode_lda : okOf (decode 0b00001101110011111111) = some (.lda (fields 1 3 false false 255)) := by decide
theorem test_decode_ldx : okOf (decode 0b10000100100000101000) = some (.ldx (fields 0 2 false false 40)) := by decide
theorem test_decode_stx : okOf (decode 0b10001000110000111100) = some (.stx (fields 0 3 false false 60)) := by decide
theorem test_decode_amr : okOf (decode 0b00010010011000000011) = some (.amr (fields 2 1 true false 3)) := by decide
theorem test_decode_smr : okOf (decode 0b00010101000000001010) = some (.smr (fields 1 0 false false 10)) := by decide
theorem test_decode_air : okOf (decode 0b00011001111000000101) = some (.air (fields 1 3 true false 5)) := by decide
theorem test_decode_sir : okOf (decode 0b00011110000000001010) = some (.sir (fields 2 0 false false 10)) := by decide
theorem test_decode_jz : okOf (decode 0b00100001001000000101) = some (.jz (fields 1 0 true false 5)) := by decide
theorem test_decode_jne : okOf (decode 0b00100110000000011110) = some (.jne (fields 2 0 false false 30)) := by decide
theorem test_decode_jge : okOf (decode 0b00111100000000101000) = some (.jge (fields 0 0 false false 40)) := by decide
theorem test_decode_jcc : okOf (decode 0b00101011000000110010) = some (.jcc (fields 3 0 false false 50)) := by decide
theorem test_decode_jmp : okOf (decode 0b00101100010000000101) = some (.jmp (fields 0 1 false false 5)) := by decide
theorem test_decode_jsr : okOf (decode 0b00110000000001100100) = some (.jsr (fields 0 0 false false 100)) := by decide
theorem test_decode_rfs : okOf (decode 0b00110100000000101010) = some (.rfs (fields 0 0 false false 42)) := by decide
theorem test_decode_sob : okOf (decode 0b00111001001000000101) = some (.sob (fields 1 0 true false 5)) := by decide
theorem test_decode_src : okOf (decode 0b01100101110011111111) = some (.src (fields 1 3 false false 255)) := by decide
theorem test_decode_rrc : okOf (decode 0b01101000100000000001) = some (.rrc (fields 0 2 false false 1)) := by decide
theorem test_decode_trr : okOf (decode 0b01001001100000000000) = some (.trr (fields 1 2 false false 0)) := by decide
theorem test_decode_and : okOf (decode 0b01001101100000000000) = some (.and (fields 1 2 false false 0)) := by decide
theorem test_decode_orr : okOf (decode 0b01010001100000000000) = some (.orr (fields 1 2 false false 0)) := by decide
theorem test_decode_not : okOf (decode 0b01010111000000000000) = some (.not (fields 3 0 false false 0)) := by decide
theorem test_decode_trace_bit : okOf (decode 0x0510A) = some (.ldr (fields 1 0 false true 10)) := by decide
theorem test_decode_unhandled : errorOf (decode 0xFC205) = some (.unhandledOpcode 63) := by decide
theorem test_decode_table_word : decodeTableWord 24 0x07A05 = some (.ldr (fields 3 2 true false 5)) := by decide
theorem test_encode_sob : encode (.sob (fields 1 0 false false 2)) = 0x39002 := by decide

/-! ## BitUnit (95_test_vectors.md 1.1, 2.1) -/

theorem test_construct_bounds_20 :
    okOf (construct 20 (-524287)) = some 0x80001 ∧ okOf (construct 20 524288) = some 0x80000 ∧
    errorOf (construct 20 (-524288)) = some (.construction 20 (-524288)) ∧
    errorOf (construct 20 1048576) = some (.construction 20 1048576) := by decide
theorem test_construct_bounds_13 :
    okOf (construct 13 (-4095)) = some 0x1001 ∧ okOf (construct 13 8191) = some 0x1FFF ∧
    errorOf (construct 13 8192) = some (.construction 13 8192) := by decide
theorem test_sizes_0_and_33_refused :
    errorOf (newBitUnit 0 0) = some (.construction 0 0) ∧ errorOf (newBitUnit 33 0) = some (.construction 33 0) := by decide
theorem test_strings :
    okOf (fromBinaryString 4 ['1', '0']) = some 0b1110 ∧ okOf (fromBinaryString 4 ['0', '1']) = some 0b0001 ∧
    errorOf (fromBinaryString 4 ['1', '0', '0', '1', '0']) = some (.badString 4 ['1', '0', '0', '1', '0']) ∧
    errorOf (fromBinaryString 4 ['1', '0', '2']) = some (.badString 4 ['1', '0', '2']) ∧
    toBinaryString 0b1001#4 = ['1', '0', '0', '1'] := by decide
theorem test_slices :
    okOf (decomposeByOffset 0x12345#20 0 5) = some 4 ∧ okOf (decomposeByOffset 0x12345#20 6 7) = some 2 ∧
    okOf (decomposeByOffset 0x12345#20 12 19) = some 0x45 ∧ okOf (decomposeByIndex 0x12345#20 3) = some 1 ∧
    errorOf (decomposeByIndex 0x12345#20 20) = some (.badSlice 20 20 20) ∧
    errorOf (decomposeByOffset 0x12345#20 5 4) = some (.badSlice 20 5 4) := by decide
theorem test_shifts :
    shift 0x12345#20 4 .left .logical = 0x23450 ∧ shift 0xFFFFF#20 255 .left .arithmetic = 0 ∧
    shift 0x80000#20 20 .right .logical = 0 ∧ shift 0x80000#20 20 .right .arithmetic = 0xFFFFF ∧
    shift 0x80010#20 4 .right .arithmetic = 0xF8001 := by decide
theorem test_rotates :
    rotate 0x80001#20 1 .left = 3 ∧ rotate 0x12345#20 4 .right = 0x51234 ∧ rotate 0x12345#20 24 .right = 0x51234 ∧
    rotate 0x12345#20 20 .left = 0x12345 := by decide

/-! ## The ALU and the memory unit (95_test_vectors.md 1.5, 2.2) -/

theorem test_alu_add : okOf (aluCompute .add 0x80000#20 0xFFFFF#20) = some (0x7FFFF, some true) := by decide
theorem test_alu_subtract : okOf (aluCompute .subtract 0xFFFFF#20 0x7FFFF#20) = some (0x80000, some false) := by decide
theorem test_alu_and : okOf (aluCompute .and 0xF0F0F#20 0x0FF00#20) = some (0x00F00, none) := by decide
theorem test_alu_multiply : okOf (aluCompute .multiply 0x3#20 0xFFFFE#20) = some (0xFFFFA, none) := by decide
theorem test_alu_divide : okOf (aluCompute .divide 0xFFFF9#20 0x2#20) = some (0xFFFFD, none) := by decide
theorem test_alu_divide_by_zero : errorOf (aluCompute .divide 0x5#20 0#20) = some .divisionByZero := by decide
theorem test_or_helper : orHelper 0xF0F0F#20 0x0FF00#20 = 0xFFF0F := by decide

/-- The unit of 1.5: M[10] = 0x123, M[11] = 0x456. -/
def memoryUnit (m : MemState) : State :=
  { deposited 0 zeroRegs zeroIndex [(10, 0x123), (11, 0x456)] with mar := 10, mstate := m }

theorem test_memory_read :
    memoryPhase (memoryUnit .preFetch) = .done { memoryUnit .fetch with mbr := 0x123 } := by decide
theorem test_memory_busy_refuses :
    (memoryUnit .fetch).setMAR 11 = .refused ∧ (memoryUnit .store).setMBR 0x999 = .refused := by decide
theorem test_memory_write :
    memoryPhase { memoryUnit .preStore with mar := 11, mbr := 0xABC } =
      .done { memoryUnit .store with mar := 11, mbr := 0xABC, mem := { cells := [(10, 0x123), (11, 0xABC)] } } := by
  decide
theorem test_write_of_zero_unlists_the_cell :
    (memoryUnit .none).mem.write 10 0 = { cells := [(11, 0x456)] } := by decide

/-! ## One step of each instruction (95_test_vectors.md 1.8, 1.9, 2.4 to 2.8) -/

theorem test_hlt :
    (nextOf (step (deposited 5 ⟨0, 0, 0, 0⟩ ⟨0, 0, 0⟩ []))).map (fun t => (t.halted, t.pc, t.top, t.micro)) = some (true, 5, .execute, 0) := by decide
theorem test_hlt_decode_read_out_of_range :
    faultAfter (deposited 0 ⟨0, 0, 0, 0⟩ ⟨3000, 0, 0⟩ [(0, 0x605)]) = some (.addressOutOfRange 3005) := by decide
theorem test_ldr_indexed_offset :
    seen (deposited 0 ⟨0, 0, 0, 0⟩ ⟨0, 50, 0⟩ [(0, 0x7a05), (55, 0x190), (400, 0xfffff)]) =
      some ⟨0x0, 0x0, 0x0, 0xfffff, 1, 0, false⟩ := by decide
theorem test_ldr_top_of_memory :
    seen (deposited 0 ⟨0, 0, 0, 0⟩ ⟨0, 0, 0⟩ [(0, 0x420a), (10, 0x7ff), (2047, 0x13579)]) =
      some ⟨0x13579, 0x0, 0x0, 0x0, 1, 0, false⟩ := by decide
theorem test_str :
    (nextOf (step (deposited 0 ⟨0, 0x12345, 0, 0⟩ ⟨0, 0, 0⟩ [(0, 0x901e)]))).map (fun t => (t.mem.read 30, t.pc, t.mar, t.mbr)) = some (0x12345, 1, 30, 0x12345) := by decide
theorem test_str_out_of_range :
    (nextOf (step (deposited 0 ⟨0, 0x55, 0, 0⟩ ⟨0, 0, 0⟩ [(0, 0x9207), (7, 0xbb8)]))).map (fun t => (t.mem.cells, t.mar, t.mbr, t.mstate, t.fault.isSome)) = some ([(0, 0x9207), (7, 3000)], 3000, 0x55, .preStore, true) := by decide
theorem test_lda_unbounded_sum :
    seen (deposited 0 ⟨0, 0, 0, 0⟩ ⟨0, 0, 8191⟩ [(0, 0xdcff)]) =
      some ⟨0x0, 0x20fe, 0x0, 0x0, 1, 0, false⟩ := by decide
theorem test_lda_indirect :
    seen (deposited 0 ⟨0, 0, 0, 0⟩ ⟨0, 0, 0⟩ [(0, 0xd214), (20, 0xfffff)]) =
      some ⟨0x0, 0xfffff, 0x0, 0x0, 1, 0, false⟩ := by decide
theorem test_ldx :
    (nextOf (step (deposited 0 ⟨0, 0, 0, 0⟩ ⟨0, 0, 0⟩ [(0, 0x84828), (40, 0x309)]))).map (fun t => (t.index, t.pc)) = some (⟨0, 777, 0⟩, 1) := by decide
theorem test_ldx_too_wide :
    faultAfter (deposited 0 ⟨0, 0, 0, 0⟩ ⟨0, 0, 0⟩ [(0, 0x84429), (41, 0x2328)]) = some (.construction 13 9000) := by decide
theorem test_stx :
    (nextOf (step (deposited 0 ⟨0, 0, 0, 0⟩ ⟨0, 0, 5⟩ [(0, 0x88c3c)]))).map (fun t => (t.mem.read 65, t.pc)) = some (5, 1) := by decide
theorem test_stx_address_too_wide :
    faultAfter (deposited 0 ⟨0, 0, 0, 0⟩ ⟨0, 0, 8191⟩ [(0, 0x88c3c)]) = some (.construction 13 8251) := by decide
theorem test_amr_overflow :
    seen (deposited 0 ⟨1, 0, 0, 0⟩ ⟨0, 0, 0⟩ [(0, 0x1000a), (10, 0x7ffff)]) =
      some ⟨0x80000, 0x0, 0x0, 0x0, 1, 8, false⟩ := by decide
theorem test_amr_indexed_offset :
    seen (deposited 0 ⟨0, 0, 1, 0⟩ ⟨10, 0, 0⟩ [(0, 0x12603), (13, 0x32), (50, 0x64)]) =
      some ⟨0x0, 0x0, 0x65, 0x0, 1, 0, false⟩ := by decide
theorem test_smr :
    seen (deposited 0 ⟨0, 7, 0, 0⟩ ⟨0, 0, 0⟩ [(0, 0x1500a), (10, 0x5)]) =
      some ⟨0x0, 0xffffe, 0x0, 0x0, 1, 0, false⟩ := by decide
theorem test_smr_overflow :
    seen (deposited 0 ⟨0, 1, 0, 0⟩ ⟨0, 0, 0⟩ [(0, 0x1500a), (10, 0x80000)]) =
      some ⟨0x0, 0x7ffff, 0x0, 0x0, 1, 8, false⟩ := by decide
theorem test_air :
    seen (deposited 1 ⟨2, 0, 0, 0⟩ ⟨0, 0, 0⟩ [(1, 0x180c8)]) =
      some ⟨0xca, 0x0, 0x0, 0x0, 2, 0, false⟩ := by decide
theorem test_air_overflow :
    seen (deposited 0 ⟨0, 0, 0, 0x7ffff⟩ ⟨0, 0, 0⟩ [(0, 0x1b0ff)]) =
      some ⟨0x0, 0x0, 0x0, 0x800fe, 1, 8, false⟩ := by decide
theorem test_sir :
    seen (deposited 0 ⟨0, 0, 3, 0⟩ ⟨0, 0, 0⟩ [(0, 0x1e00a)]) =
      some ⟨0x0, 0x0, 0xffff9, 0x0, 1, 0, false⟩ := by decide
theorem test_sir_overflow :
    seen (deposited 0 ⟨0, 0, 0x80000, 0⟩ ⟨0, 0, 0⟩ [(0, 0x1e001)]) =
      some ⟨0x0, 0x0, 0x7ffff, 0x0, 1, 8, false⟩ := by decide
theorem test_jz_taken :
    seen (deposited 0 ⟨0, 0, 0, 0⟩ ⟨0, 0, 0⟩ [(0, 0x21014)]) =
      some ⟨0x0, 0x0, 0x0, 0x0, 20, 0, false⟩ := by decide
theorem test_jz_not_taken_ignores_target :
    seen (deposited 0 ⟨0, 1, 0, 0⟩ ⟨0, 0, 0⟩ [(0, 0x21205), (5, 0x2328)]) =
      some ⟨0x0, 0x1, 0x0, 0x0, 1, 0, false⟩ := by decide
theorem test_jne_taken :
    seen (deposited 0 ⟨0, 0, 1, 0⟩ ⟨0, 0, 0⟩ [(0, 0x2601e)]) =
      some ⟨0x0, 0x0, 0x1, 0x0, 30, 0, false⟩ := by decide
theorem test_jne_not_taken :
    seen (deposited 0 ⟨0, 0, 0, 0⟩ ⟨0, 0, 0⟩ [(0, 0x2601e)]) =
      some ⟨0x0, 0x0, 0x0, 0x0, 1, 0, false⟩ := by decide
theorem test_jge_taken :
    seen (deposited 0 ⟨0x7ffff, 0, 0, 0⟩ ⟨0, 0, 0⟩ [(0, 0x3c028)]) =
      some ⟨0x7ffff, 0x0, 0x0, 0x0, 40, 0, false⟩ := by decide
theorem test_jge_not_taken :
    seen (deposited 0 ⟨0x80000, 0, 0, 0⟩ ⟨0, 0, 0⟩ [(0, 0x3c028)]) =
      some ⟨0x80000, 0x0, 0x0, 0x0, 1, 0, false⟩ := by decide
theorem test_jcc :
    seen (deposited 0 ⟨0, 0, 0, 0⟩ ⟨0, 0, 0⟩ [(0, 0x28032)]) =
      some ⟨0x0, 0x0, 0x0, 0x0, 1, 0, false⟩ := by decide
theorem test_jmp_register_indirect :
    seen (deposited 0 ⟨0, 0, 0, 0⟩ ⟨200, 0, 0⟩ [(0, 0x2c405)]) =
      some ⟨0x0, 0x0, 0x0, 0x0, 205, 0, false⟩ := by decide
theorem test_jmp_too_wide :
    faultAfter (deposited 0 ⟨0, 0, 0, 0⟩ ⟨0, 0, 0⟩ [(0, 0x2c207), (7, 0x2328)]) = some (.construction 13 9000) := by decide
theorem test_jsr :
    seen (deposited 10 ⟨0, 0, 0, 0⟩ ⟨0, 0, 0⟩ [(10, 0x30064)]) =
      some ⟨0x0, 0x0, 0x0, 0xb, 100, 0, false⟩ := by decide
theorem test_rfs :
    seen (deposited 0 ⟨0, 0, 0, 0xb⟩ ⟨0, 0, 0⟩ [(0, 0x34007)]) =
      some ⟨0x7, 0x0, 0x0, 0xb, 11, 0, false⟩ := by decide
theorem test_rfs_too_wide_writes_nothing :
    seen (deposited 0 ⟨0x55, 0, 0, 0x2328⟩ ⟨0, 0, 0⟩ [(0, 0x34007)]) =
      some ⟨0x55, 0x0, 0x0, 0x2328, 0, 0, true⟩ := by decide
theorem test_sob_taken_on_overflow :
    seen (deposited 8 ⟨0, 0x80000, 0, 0⟩ ⟨0, 0, 0⟩ [(8, 0x39005)]) =
      some ⟨0x0, 0x7ffff, 0x0, 0x0, 5, 8, false⟩ := by decide
theorem test_sob_not_taken_at_zero :
    seen (deposited 8 ⟨0, 1, 0, 0⟩ ⟨0, 0, 0⟩ [(5, 0x2328), (8, 0x39205)]) =
      some ⟨0x0, 0x0, 0x0, 0x0, 9, 0, false⟩ := by decide
theorem test_src_arithmetic_right :
    seen (deposited 0 ⟨0, 0x80010, 0, 0⟩ ⟨0, 0, 0⟩ [(0, 0x65004)]) =
      some ⟨0x0, 0xf8001, 0x0, 0x0, 1, 0, false⟩ := by decide
theorem test_src_logical_right :
    seen (deposited 0 ⟨0, 0x80010, 0, 0⟩ ⟨0, 0, 0⟩ [(0, 0x65804)]) =
      some ⟨0x0, 0x8001, 0x0, 0x0, 1, 0, false⟩ := by decide
theorem test_rrc_left_mod_20 :
    seen (deposited 0 ⟨0x12345, 0, 0, 0⟩ ⟨0, 0, 0⟩ [(0, 0x68418)]) =
      some ⟨0x23451, 0x0, 0x0, 0x0, 1, 0, false⟩ := by decide
theorem test_rrc_right :
    seen (deposited 0 ⟨1, 0, 0, 0⟩ ⟨0, 0, 0⟩ [(0, 0x68801)]) =
      some ⟨0x80000, 0x0, 0x0, 0x0, 1, 0, false⟩ := by decide
theorem test_trr_equal :
    seen (deposited 0 ⟨0, 5, 5, 0⟩ ⟨0, 0, 0⟩ [(0, 0x49800)]) =
      some ⟨0x0, 0x5, 0x5, 0x0, 1, 1, false⟩ := by decide
theorem test_trr_unequal :
    seen (deposited 0 ⟨0, 5, 6, 0⟩ ⟨0, 0, 0⟩ [(0, 0x49800)]) =
      some ⟨0x0, 0x5, 0x6, 0x0, 1, 0, false⟩ := by decide
theorem test_and :
    seen (deposited 0 ⟨0, 0xf0f0f, 0xff00, 0⟩ ⟨0, 0, 0⟩ [(0, 0x4d800)]) =
      some ⟨0x0, 0xf00, 0xff00, 0x0, 1, 0, false⟩ := by decide
theorem test_orr :
    seen (deposited 0 ⟨0, 0xf0f0f, 0xff00, 0⟩ ⟨0, 0, 0⟩ [(0, 0x51800)]) =
      some ⟨0x0, 0xfff0f, 0xff00, 0x0, 1, 0, false⟩ := by decide
theorem test_not :
    seen (deposited 0 ⟨0, 0, 0, 0xf⟩ ⟨0, 0, 0⟩ [(0, 0x57000)]) =
      some ⟨0x0, 0x0, 0x0, 0xffff0, 1, 0, false⟩ := by decide

/-! ## Faults, stops and the host (95_test_vectors.md 2.9, 2.11, 3) -/

theorem test_unhandled_opcode_record :
    (nextOf (step (deposited 0 zeroRegs zeroIndex [(0, 0x40005)]))).map (fun t => t.fault) =
      some (some ⟨.unhandledOpcode 16, 0, 0x40005,
        some { opcode := 16, fields := fields 0 0 false false 5, mode := .direct }, .execute, 0, .controlUnit⟩) := by
  decide
theorem test_unhandled_opcode_after_decode_read :
    faultAfter (deposited 0 zeroRegs ⟨3000, 0, 0⟩ [(0, 0xFC605)]) = some (.addressOutOfRange 3005) := by decide
theorem test_fetch_out_of_range :
    (nextOf (step (deposited 3000 zeroRegs zeroIndex []))).map (fun t => (t.fault, t.pc, t.mar, t.mstate)) =
      some (some ⟨.addressOutOfRange 3000, 3000, 0, none, .fetch, 1, .memory⟩, 3000, 3000, .preFetch) := by decide
theorem test_halted_machine_does_not_change :
    tick { State.reset with halted := true } = .next { State.reset with halted := true } := rfl
theorem test_with_fetch_word : (nextOf (step (State.reset.withFetchWord 24 0x0C014))).map (fun t => t.regs.r0) = some 20 := by
  decide
theorem test_host_mbr_deposit_stalls_the_load :
    (nextOf (ticks 2 (deposited 0 zeroRegs zeroIndex [(0, 0x0500A), (10, 5)]))).map (fun s =>
      ((nextOf (ticks 4 (s.writeRegister .mbr 0x777).2)).map fun t => (t.regs.r1, t.mem.read 0, t.pc, t.ir))) =
      some (some (5, 0x777, 1, 0x0500A)) := by decide
theorem test_host_write_refused_out_of_range :
    State.reset.writeRegister (.general 0) (-524288) = (.constructionError 20 (-524288), State.reset) ∧
    State.reset.writeRegister (.index .x1) 8192 = (.constructionError 13 8192, State.reset) ∧
    State.reset.writeRegister .cc 15 = (.nothing, State.reset) := by decide
theorem test_engineer_fetch_out_of_range :
    State.reset.engineerFetch 2048 = (.addressError 2048, State.reset) := by decide
theorem test_cc_reads_as_its_number : { State.reset with cc := 0b1001 }.readRegister .cc = 9 := by decide
theorem test_host_mar_write :
    State.reset.writeRegister .mar 8191 = (.success, { State.reset with mar := 8191, mstate := .preFetch }) ∧
    State.reset.writeRegister .mar 8192 = (.constructionError 13 8192, State.reset) ∧
    (memoryUnit .fetch).writeRegister .mar 5 = (.refused, memoryUnit .fetch) := by decide
theorem test_reset_memory_is_canonical : State.reset.mem.wf = true := by decide

/-! ## Witnesses: the hypotheses of the statements can be met

For a statement about an instruction the witness gives the state, the operands and a boundary value of each clause. -/

/-- PC 8190, M[0] = 2047, M[1] = 8191, M[2] = 2048, M[3] = 8192, and registers on each side of the tests. -/
def demo : State :=
  fetched 8190 ⟨0, 1, 0x80000, 8191⟩ ⟨2047, 8191, 8190⟩ [(0, 2047), (1, 8191), (2, 2048), (3, 8192), (2047, 8191)]

/-- Indirect fields that make the effective address M[a], with register field `r`. -/
def viaCell (r : Fin 4) (a : BitVec 8) : Fields := fields r 0 true false a

/-- An instruction boundary with a given word at PC 2047, the last cell. -/
def atLastCell (w : Word) (r : GeneralRegs) : State := deposited 2047 r ⟨2047, 8191, 8190⟩ [(0, 2047), (3, 8192), (2047, w)]

theorem witness_DecodeAndEncodeAgree :
    (Instr.sob (fields 3 3 true true 255)).WellFormed ∧ okOf (decode 0x39005) = some (.sob (fields 1 0 false false 5)) :=
  by decide

theorem witness_ConstructedValuesReadBack :
    (1 ≤ 32 ∧ 32 ≤ 32) ∧ (-(2 ^ (4 - 1) - 1) ≤ (-7 : Int) ∧ (7 : Int) ≤ 2 ^ (4 - 1) - 1) ∧
      ((2 : Int) ^ (4 - 1) ≤ 8 ∧ (15 : Int) ≤ 2 ^ 4 - 1) :=
  by decide

theorem witness_StringsAndSlicesReadMostSignificantBitFirst :
    (1 ≤ 4 ∧ 4 ≤ 32) ∧ (1 ≤ ['1', '0'].length ∧ ['1', '0'].length ≤ 4 ∧ ∀ c ∈ ['1', '0'], c = '0' ∨ c = '1') ∧
      (4 < ['1', '0', '0', '1', '0'].length ∧ ∃ c ∈ ['1', '0', '2'], c ≠ '0' ∧ c ≠ '1') ∧
      (12 ≤ 19 ∧ 19 < 20) ∧ ¬(5 ≤ 4 ∧ 4 < 20) ∧ ¬(19 ≤ 20 ∧ 20 < 20) ∧ 19 < 20 ∧ 20 ≤ 20 :=
  ⟨by decide, ⟨by decide, by decide, by simp⟩, ⟨by decide, '2', by simp⟩, by decide⟩

theorem witness_ShiftsAndRotationsFollowTheirFormulas :
    19 < 20 ∧ 0 < 20 ∧ 20 ≤ 20 ∧ (0x80000#20).msb = true ∧ (0x7FFFF#20).msb = false :=
  by decide

theorem witness_AddGivesTheSumAndSignedOverflow :
    0 < 20 ∧ ∃ s ∈ [((demo.setOperand1 1).setOperand2 2).setControl .add |>.signalReady],
      s.astate = .startComputation ∧ s.op1 = some 1 ∧ s.op2 = some 2 ∧ s.ctrl = some .add :=
  by decide

theorem witness_SubtractGivesTheDifferenceAndSignedOverflow :
    0 < 20 ∧ ∃ s ∈ [((demo.setOperand1 1).setOperand2 2).setControl .subtract |>.signalReady],
      s.astate = .startComputation ∧ s.op1 = some 1 ∧ s.op2 = some 2 ∧ s.ctrl = some .subtract :=
  by decide

theorem witness_AndAndOrHelperAreBitwise :
    ∃ s ∈ [((demo.setOperand1 1).setOperand2 2).setControl .and |>.signalReady],
      s.astate = .startComputation ∧ s.op1 = some 1 ∧ s.op2 = some 2 ∧ s.ctrl = some .and :=
  by decide

theorem witness_MultiplyAndDivideAreSignedAndWriteNoFlag :
    0 < 20 ∧ (0#20).toNat = 0 ∧ (1#20).toNat ≠ 0 :=
  by decide

theorem witness_AluPhaseMakesOneTransition :
    (demo.signalReady.astate = .startComputation ∧ demo.signalReady.op1 = none) ∧
      ((((demo.setOperand1 1).setOperand2 0).setControl .divide).signalReady.ctrl = some .divide ∧
        errorOf (aluCompute .divide 1#20 0#20) = some .divisionByZero) ∧
      ((demo.storeResult 3 none).astate = .finished) ∧ demo.astate = .none :=
  by decide

theorem witness_ResultIsReadableForOneTick :
    demo.AluIdle ∧ okOf (aluCompute .add 1#20 2#20) = some (3, some false) :=
  by decide

theorem witness_WriteRequestsObeyTheBusyRule :
    (memoryUnit .fetch).mstate = .fetch ∧ (memoryUnit .store).mstate = .store ∧ (memoryUnit .none).mstate = .none ∧
      (memoryUnit .preFetch).mstate = .preFetch ∧ (memoryUnit .preStore).mstate = .preStore :=
  by decide

theorem witness_PendingAccessesArePerformedOrFault :
    ∀ s ∈ [{ memoryUnit .preFetch with mar := 2047, micro := 1 }, { memoryUnit .preStore with mar := 2047, micro := 1 },
        { memoryUnit .preFetch with mar := 2048, micro := 1 }, { memoryUnit .preStore with mar := 8191, micro := 1 }],
      s.stopped = false ∧ controlUnitPhase s = .done { s with ir := s.mbr, top := .decode, micro := 0 } ∧
      aluPhase { s with ir := s.mbr, top := .decode, micro := 0 } = .done { s with ir := s.mbr, top := .decode, micro := 0 } ∧
      (s.mstate = .preFetch ∨ s.mstate = .preStore) ∧ s.mem.wf = true :=
  by decide

theorem witness_RequestsAreServedInOneTickAndBusyForOneMore :
    (memoryUnit .store).mstate.busy = true ∧ (memoryUnit .none).mstate = .none ∧ (memoryUnit .preStore).mstate.busy = false ∧
      8191 < 8192 ∧ 2047 < 2048 :=
  by decide

theorem witness_BusyMicrostepsStall :
    ∀ s ∈ [{ memoryUnit .store with micro := 0 },
        { memoryUnit .fetch with top := .decode, micro := 1, dec := some ⟨0, fields 0 0 true false 5, .indexed⟩ },
        { memoryUnit .store with top := .execute, dec := some (latched (.stx (fields 0 3 false false 5))), ea := some 5 }],
      s.stopped = false ∧ s.mstate.busy = true ∧ s.MakesRequest ∧ s.AluIdle :=
  by decide

theorem witness_FetchFollowsItsTwoMicrosteps :
    ((memoryUnit .store).top = .fetch ∧ (memoryUnit .store).micro = 0) ∧ (memoryUnit .none).mstate.busy = false ∧
      ({ memoryUnit .none with pc := 2048 }.stopped = false ∧ { memoryUnit .none with pc := 2048 }.astate = .none ∧
        2048 ≤ { memoryUnit .none with pc := 2048 }.pc.toNat) ∧ { memoryUnit .fetch with micro := 1 }.micro = 1 :=
  by decide

theorem witness_DecodeFollowsItsMicrosteps :
    (demo.top = .decode ∧ demo.micro = 0) ∧ opcodeField 0x19E05 = Config.opcodeMap .AIR ∧
      (opcodeField 0xFC605 ≠ Config.opcodeMap .AIR ∧ opcodeField 0xFC605 ≠ Config.opcodeMap .SIR ∧
        (fieldsOf 0xFC605).ibit = true ∧ (fieldsOf 0xFC605).xfi ≠ 0) ∧
      ((fieldsOf 0x00005).ibit = false ∧ (fieldsOf 0x00005).xfi = 0) ∧
      demo.index.get 2 = some 8191 ∧ (8191#13).toNat + (0#8).toNat ≤ 8191 ∧ 8191 < (8191#13).toNat + (1#8).toNat ∧
      { demo with mstate := .store, micro := 1 }.mstate = .store ∧ demo.mstate.busy = false ∧
      demo.stopped = false ∧ demo.astate = .none ∧ demo.index.get 1 = some 2047 ∧ 2048 ≤ (2047#13).toNat + (1#8).toNat :=
  by decide

theorem witness_HltHaltsWithoutCompleting :
    demo.Fetched ∧ demo.DecodeReadable (viaCell 0 3) :=
  by decide

theorem witness_LdrLoadsTheRegister :
    demo.Fetched ∧ demo.DecodeReadable (viaCell 1 0) ∧ demo.effectiveAddress (viaCell 1 0) = 2047 ∧ 2047 < 2048 ∧ demo.pc.toNat < 8191 :=
  by decide

theorem witness_StrStoresTheRegister :
    demo.Fetched ∧ demo.DecodeReadable (viaCell 1 0) ∧ demo.effectiveAddress (viaCell 1 0) = 2047 ∧ 2047 < 2048 ∧ demo.pc.toNat < 8191 ∧ demo.mem.wf = true :=
  by decide

theorem witness_LdaLoadsTheAddress :
    demo.Fetched ∧ demo.DecodeReadable (viaCell 1 3) ∧ demo.effectiveAddress (viaCell 1 3) = 8192 ∧ demo.pc.toNat < 8191 :=
  by decide

theorem witness_LdxLoadsTheIndexRegister :
    demo.Fetched ∧ demo.DecodeReadable (fields 0 1 false false 0) ∧ demo.effectiveAddress (fields 0 1 false false 0) = 2047 ∧ (1 : Fin 4) ≠ 0 ∧ 2047 < 2048 ∧
      (demo.mem.read 2047).toNat ≤ 8191 ∧ demo.pc.toNat < 8191 :=
  by decide

theorem witness_StxStoresTheIndexRegister :
    demo.Fetched ∧ demo.DecodeReadable (fields 0 1 false false 0) ∧ demo.effectiveAddress (fields 0 1 false false 0) = 2047 ∧ demo.index.get 1 = some 2047 ∧ 2047 < 2048 ∧
      demo.pc.toNat < 8191 ∧ demo.mem.wf = true :=
  by decide

theorem witness_AmrAddsMemoryToTheRegister :
    demo.Fetched ∧ demo.DecodeReadable (viaCell 1 0) ∧ demo.effectiveAddress (viaCell 1 0) = 2047 ∧ 2047 < 2048 ∧ demo.mem.read 2047 = 8191 ∧
      demo.pc.toNat < 8191 :=
  by decide

theorem witness_SmrSubtractsInTheConfiguredOrder :
    demo.Fetched ∧ demo.DecodeReadable (viaCell 1 0) ∧ demo.effectiveAddress (viaCell 1 0) = 2047 ∧ 2047 < 2048 ∧ demo.mem.read 2047 = 8191 ∧
      demo.pc.toNat < 8191 :=
  by decide

theorem witness_ImmediateArithmeticUsesTheAddressField :
    demo.Fetched ∧ (255#8).setWidth 20 = (255 : Word) ∧ demo.pc.toNat < 8191 :=
  by decide

theorem witness_ConditionalJumpsTestTheRegisterOrFlag :
    demo.Fetched ∧ demo.DecodeReadable (viaCell 0 1) ∧ demo.effectiveAddress (viaCell 0 1) = 8191 ∧ 8191 ≤ 8191 ∧
      (demo.reg 0 = 0 ∧ demo.reg 1 ≠ 0 ∧ 0 ≤ (demo.reg 1).toInt ∧ ¬0 ≤ (demo.reg 2).toInt) ∧
      ccBit { demo with cc := 8 }.cc 0 = true ∧ ccBit demo.cc 0 = false ∧ demo.pc.toNat < 8191 :=
  by decide

theorem witness_JmpGoesToTheAddress :
    demo.Fetched ∧ demo.DecodeReadable (viaCell 0 1) ∧ demo.effectiveAddress (viaCell 0 1) = 8191 ∧ 8191 ≤ 8191 :=
  by decide

theorem witness_JsrSavesTheReturnAddress :
    demo.Fetched ∧ demo.DecodeReadable (viaCell 0 1) ∧ demo.effectiveAddress (viaCell 0 1) = 8191 ∧ 8191 ≤ 8191 :=
  by decide

theorem witness_RfsReturnsThroughTheLinkRegister :
    demo.Fetched ∧ demo.DecodeReadable (viaCell 0 1) ∧ (demo.reg 3).toNat ≤ 8191 :=
  by decide

theorem witness_SobDecrementsAndBranchesWhilePositive :
    demo.Fetched ∧ demo.DecodeReadable (viaCell 3 1) ∧ demo.effectiveAddress (viaCell 3 1) = 8191 ∧ demo.reg 3 - 1 = 8190 ∧ 0 < (8190#20).toInt ∧
      8191 ≤ 8191 ∧ demo.reg 1 - 1 = 0 ∧ (0#20).toInt ≤ 0 ∧ demo.reg 2 - 1 = 0x7FFFF ∧ demo.pc.toNat < 8191 :=
  by decide

theorem witness_ShiftAndRotateTheRegister :
    demo.Fetched ∧ demo.DecodeReadable (fields 1 3 false false 255) ∧ demo.pc.toNat < 8191 ∧
      (Direction.left = .left ↔ (3 : Fin 4).val % 2 = 1) ∧ (ShiftMode.logical = .logical ↔ (3 : Fin 4).val / 2 = 1) ∧
      (Direction.right = .left ↔ (0 : Fin 4).val % 2 = 1) ∧ (ShiftMode.arithmetic = .logical ↔ (0 : Fin 4).val / 2 = 1) :=
  by decide

theorem witness_TrrSetsTheEqualFlag :
    demo.Fetched ∧ demo.DecodeReadable (fields 1 2 false false 0) ∧ demo.pc.toNat < 8191 :=
  by decide

theorem witness_LogicWritesTheRegisterAlone :
    demo.Fetched ∧ demo.DecodeReadable (fields 1 2 false false 0) ∧ demo.pc.toNat < 8191 :=
  by decide

theorem witness_FaultsEndTheTickWhereTheyAreRaised :
    demo.stopped = false ∧
      controlUnitPhase { demo with top := .execute, dec := some (latched (.ldx (fields 0 0 false false 0))), ea := some 0 } =
        .raise (.invalidRegister 0) ∧
      (controlUnitPhase demo.signalReady = .done (decodeStart 0 (fields 0 0 false false 0) demo.signalReady) ∧
        aluPhase (decodeStart 0 (fields 0 0 false false 0) demo.signalReady) = .raise (.aluProtocol .missingInput)) ∧
      controlUnitPhase { demo with mar := 2048, mstate := .preFetch } =
        .done (decodeStart 0 (fields 0 0 false false 0) { demo with mar := 2048, mstate := .preFetch }) ∧
      aluPhase (decodeStart 0 (fields 0 0 false false 0) { demo with mar := 2048, mstate := .preFetch }) =
        .done (decodeStart 0 (fields 0 0 false false 0) { demo with mar := 2048, mstate := .preFetch }) ∧
      memoryPhase (decodeStart 0 (fields 0 0 false false 0) { demo with mar := 2048, mstate := .preFetch }) =
        .raise (.addressOutOfRange 2048) :=
  by decide

theorem witness_DecodeReadOutsideMemoryFaults :
    demo.Fetched ∧ Mnemonic.HLT ≠ .AIR ∧ Mnemonic.HLT ≠ .SIR ∧ (fields 0 1 true false 1).ibit = true ∧
      (demo.baseAddress (fields 0 1 true false 1) = 2048 ∧ demo.baseAddress (fields 0 2 true false 0) = 8191) ∧
      demo.baseAddress (fields 0 2 true false 1) = 8192 :=
  by decide

theorem witness_ExecuteAccessOutsideMemoryFaults :
    (demo.Fetched ∧ demo.DecodeReadable (fields 1 1 false false 1) ∧ demo.effectiveAddress (fields 1 1 false false 1) = 2048 ∧ 2048 ≤ 2048 ∧ (1 : Fin 4) ≠ 0) ∧
      demo.effectiveAddress (fields 1 2 false false 0) = 8191 ∧ demo.effectiveAddress (fields 1 2 false false 1) = 8192 ∧
      demo.index.get 1 = some 2047 :=
  by decide

/-- `demo` after the host has written PC = 8191. -/
def demoLastPc : State := { demo with pc := 8191 }

theorem witness_TakenTransferTooWideFaults :
    (demo.Fetched ∧ demo.DecodeReadable (viaCell 0 3) ∧ demo.effectiveAddress (viaCell 0 3) = 8192 ∧ 8191 < 8192 ∧ demo.reg 0 = 0) ∧
      0 < (demo.reg 3 - 1).toInt ∧ { demo with regs := ⟨0, 0, 0, 8192⟩ }.Fetched ∧
      8191 < ({ demo with regs := ⟨0, 0, 0, 8192⟩ }.reg 3).toNat :=
  by decide

theorem witness_TakenTransferTooWideFaults_at_the_last_pc :
    (demoLastPc.Fetched ∧ demoLastPc.pc.toNat = 8191) ∧
      (demoLastPc.DecodeReadable (fields 0 1 false false 0) ∧ demoLastPc.effectiveAddress (fields 0 1 false false 0) = 2047) ∧
      (demoLastPc.reg 0 - 1).toInt ≤ 0 ∧ 2047 < 2048 ∧ demoLastPc.mem.read 2047 = 8191 ∧ (8191#20).toNat ≤ 8191 ∧
      demoLastPc.index.get 1 = some 2047 ∧ decide (demoLastPc.reg 0 ≠ 0) = false ∧ (255#8).setWidth 20 = (255 : Word) :=
  by decide

theorem witness_IndexRegisterFaults :
    (demo.Fetched ∧ demo.DecodeReadable (viaCell 0 0)) ∧
      { demo with mem := { cells := [(2047, 8192)] } }.Fetched ∧
      { demo with mem := { cells := [(2047, 8192)] } }.effectiveAddress (fields 0 1 false false 0) = 2047 ∧ 2047 < 2048 ∧
      8191 < ({ demo with mem := { cells := [(2047, 8192)] } }.mem.read 2047).toNat :=
  by decide

theorem witness_UnhandledOpcodesAreDecodedThenFault :
    (atLastCell 0xFC203 zeroRegs).Ready ∧ (atLastCell 0xFC203 zeroRegs).pc.toNat < 2048 ∧
      (atLastCell 0xFC203 zeroRegs).mem.read 2047 = 0xFC203 ∧ errorOf (decode 0xFC203) = some (.unhandledOpcode 63) ∧
      (atLastCell 0xFC203 zeroRegs).afterFetch.DecodeReadable (fieldsOf 0xFC203) :=
  by decide

theorem witness_UnhandledOpcodesAreDecodedThenFault_in_decode :
    (atLastCell 0xFC601 zeroRegs).Ready ∧ errorOf (decode 0xFC601) = some (.unhandledOpcode 63) ∧
      (fieldsOf 0xFC601).ibit = true ∧ (atLastCell 0xFC601 zeroRegs).afterFetch.baseAddress (fieldsOf 0xFC601) = 2048 ∧
      errorOf (decode 0xFCA00) = some (.unhandledOpcode 63) ∧
      (atLastCell 0xFCA00 zeroRegs).afterFetch.baseAddress (fieldsOf 0xFCA00) = 8191 ∧
      (atLastCell 0xFCA01 zeroRegs).afterFetch.baseAddress (fieldsOf 0xFCA01) = 8192 :=
  by decide

theorem witness_FaultsLeaveRegistersPcAndMemory :
    (atLastCell 0x2C203 zeroRegs).Ready ∧ faultAfter (atLastCell 0x2C203 zeroRegs) = some (.construction 13 8192) :=
  by decide

theorem witness_ProgramsNeverReachTheUnitFaults :
    (deposited 2048 zeroRegs zeroIndex []).runInv = true ∧ (deposited 2048 zeroRegs zeroIndex []).fault = none ∧
      ((nextOf (tick (deposited 2048 zeroRegs zeroIndex []))).bind fun t => t.fault.map fun r => r.kind) =
        some (.addressOutOfRange 2048) :=
  by decide

theorem witness_StoppedMachinesNeverChange :
    { demo with halted := true }.halted = true ∧ (demo.takeFault .divisionByZero .alu).fault ≠ none :=
  by decide

theorem witness_StepRunsTheDecodedInstruction :
    (atLastCell 0x39005 zeroRegs).Ready ∧ (atLastCell 0x39005 zeroRegs).pc.toNat < 2048 ∧
      okOf (decode ((atLastCell 0x39005 zeroRegs).mem.read 2047)) = some (.sob (fields 1 0 false false 5)) ∧
      (Instr.sob (fields 1 0 false false 5)).WellFormed :=
  by decide

theorem witness_StepRunsTheTicksOfOneInstruction :
    (nextOf (step demo)).isSome = true ∧ (atLastCell 0x39005 zeroRegs).LatchesAgree ∧ demo.LatchesAgree ∧
      (demo.atExecute (.sob (fields 1 0 false false 5))).LatchesAgree :=
  by decide

theorem witness_InstructionsTakeTheTabulatedTicks :
    (atLastCell 0x39005 zeroRegs).Ready ∧ (atLastCell 0x39005 zeroRegs).pc.toNat < 2048 ∧
      okOf (decode ((atLastCell 0x39005 zeroRegs).mem.read 2047)) = some (.sob (fields 1 0 false false 5)) ∧
      seen (atLastCell 0x39005 zeroRegs) = some ⟨0, 0xFFFFF, 0, 0, 2048, 0, false⟩ :=
  by decide

theorem witness_TicksKeepTheRunInvariant :
    State.reset.runInv = true ∧ (nextOf (tick State.reset)).isSome = true :=
  by decide

theorem witness_StepsKeepTheRunInvariant :
    (atLastCell 0x39005 zeroRegs).runInv = true ∧ (atLastCell 0x39005 zeroRegs).AtBoundary ∧
      (nextOf (step (atLastCell 0x39005 zeroRegs))).isSome = true ∧ (demo.takeFault .divisionByZero .alu).stopped = true :=
  by decide

theorem witness_RunsNeverStallOrMeetAMissingRule :
    (atLastCell 0x39005 zeroRegs).runInv = true ∧ (atLastCell 0x39005 zeroRegs).stopped = false :=
  by decide

theorem witness_EveryEventKeepsTheBasicInvariant :
    State.reset.basicInv = true ∧
      (nextOf (runEvents [.clockCycle, .host (.engineerSet 5 7), .host (.writeRegister .mbr 3), .clockCycle] State.reset)).isSome = true :=
  by decide

theorem witness_MsrAndMfrAreNeitherReadNorWritten :
    (nextOf (runEvents [.clockCycle, .host .observe, .clockCycle] State.reset)).isSome = true ∧
      runEvents [.clockCycle] { State.reset with micro := 7 } = .fault (.noMicrostep .fetch 7) :=
  ⟨by decide, rfl⟩

theorem witness_TraceBitHasNoEffect :
    demo.Fetched ∧ (nextOf (exec (.sob (viaCell 3 1)) demo)).isSome = true :=
  by decide

theorem witness_JccNeverJumpsInARun :
    (atLastCell 0x2B032 zeroRegs).Ready ∧ (atLastCell 0x2B032 zeroRegs).pc.toNat < 2048 ∧
      okOf (decode ((atLastCell 0x2B032 zeroRegs).mem.read 2047)) = some (.jcc (fields 3 0 false false 50)) ∧
      seen (atLastCell 0x2B032 zeroRegs) = some ⟨0, 0, 0, 0, 2048, 0, false⟩ :=
  by decide

theorem witness_HostWritesConstructOrLeaveTheRegister :
    ((-524287 : Int) ≤ -524287 ∧ (1048575 : Int) ≤ 1048575) ∧ ¬((-524287 : Int) ≤ -524288 ∧ (-524288 : Int) ≤ 1048575) ∧
      ((-4095 : Int) ≤ 8191 ∧ (8191 : Int) ≤ 8191) ∧ ¬((8192 : Int) ≤ 8191) ∧ demo.mstate.busy = false ∧
      (memoryUnit .store).mstate.busy = true :=
  by decide

theorem witness_EngineeringInterfaceTouchesOneCell :
    demo.mem.wf = true ∧ 2047 < 2048 ∧ ¬(2048 < 2048) ∧ 2048 ≤ 2048 ∧ ((-524287 : Int) ≤ -524287 ∧ (1048575 : Int) ≤ 1048575) ∧
      ¬((-524287 : Int) ≤ -524288 ∧ (-524288 : Int) ≤ 1048575) :=
  by decide

theorem witness_HostMbrDepositStoresAtMar :
    { demo with mar := 2047 }.Fetched ∧ { demo with mar := 2047 }.mar.toNat < 2048 ∧ demo.mem.wf = true ∧
      (-524287 : Int) ≤ -524287 ∧ (-524287 : Int) ≤ 1048575 :=
  by decide

end Sys2Proof.Tests
end

section
/-!
PROOFS. BitUnit values (10_state.md R12 to R18): construction, strings, slices, shifts and rotations.
-/

namespace Sys2Proof.Machine

open Sys2Proof

/-! ## Construction -/

/-- `construct` with its legal range written out (R13). -/
theorem construct_eq_ite (w : Nat) (n : Int) :
    construct w n =
      if -(2 ^ (w - 1) - 1) ≤ n ∧ n ≤ 2 ^ w - 1 then .ok (BitVec.ofInt w n) else .error (.construction w n) := rfl

theorem construct_of_legal {w : Nat} {n : Int} (hl : -(2 ^ (w - 1) - 1) ≤ n) (hh : n ≤ 2 ^ w - 1) :
    construct w n = .ok (BitVec.ofInt w n) := by
  rw [construct_eq_ite, if_pos ⟨hl, hh⟩]

/-- Settles O4: the size check, and inside it the two outcomes of `construct`. -/
theorem constructionAcceptsExactlyTheLegalRange : Obligations.ConstructionAcceptsExactlyTheLegalRange := by
  unfold Obligations.ConstructionAcceptsExactlyTheLegalRange
  intro size n
  rw [newBitUnit, construct_eq_ite]
  by_cases hsize : 1 ≤ size ∧ size ≤ 32
  · rw [if_pos hsize]
    by_cases hn : -(2 ^ (size - 1) - 1) ≤ n ∧ n ≤ 2 ^ size - 1
    · rw [if_pos hn, if_pos ⟨hsize.1, hsize.2, hn⟩]
    · rw [if_neg hn, if_neg fun h => hn h.2.2]
  · rw [if_neg hsize, if_neg fun h => hsize ⟨h.1, h.2.1⟩]

/-- A width above 0 doubles the sign bit's weight. -/
theorem two_pow_eq_double {w : Nat} (hw : 1 ≤ w) : (2 : Int) ^ w = 2 * 2 ^ (w - 1) := by
  rw [← pow_succ', Nat.sub_add_cancel hw]

/-- An integer that is the unsigned value of a pattern reads back as that value. -/
theorem toNat_ofInt_of_lt {w : Nat} {n : Int} (h0 : 0 ≤ n) (hn : n < 2 ^ w) : ((BitVec.ofInt w n).toNat : Int) = n := by
  rw [BitVec.toNat_ofInt, Int.emod_eq_of_lt h0 (by exact_mod_cast hn), Int.toNat_of_nonneg h0]

/-- A pattern of the upper half reads signed as the integer less 2^w. -/
theorem toInt_ofInt_of_upper_half {w : Nat} {n : Int} (hw : 1 ≤ w) (hl : 2 ^ (w - 1) ≤ n) (hh : n < 2 ^ w) :
    (BitVec.ofInt w n).toInt = n - 2 ^ w := by
  have hd := two_pow_eq_double hw
  have hpos : (0 : Int) < 2 ^ (w - 1) := by positivity
  have hn := toNat_ofInt_of_lt (by omega) hh
  have hcast : ((2 ^ w : Nat) : Int) = 2 ^ w := by norm_cast
  rw [BitVec.toInt_eq_toNat_cond, if_neg (by omega), hn, hcast]

/-- Settles O5: the lower part of the range reads back signed, the upper part unsigned. -/
theorem constructedValuesReadBack : Obligations.ConstructedValuesReadBack := by
  unfold Obligations.ConstructedValuesReadBack
  intro w n hw _
  have hd := two_pow_eq_double hw
  have hpos : (0 : Int) < 2 ^ (w - 1) := by positivity
  constructor
  · intro hl hh
    exact ⟨_, construct_of_legal hl (by omega), BitVec.toInt_ofInt_eq_self hw (by omega) (by omega)⟩
  · intro hl hh
    exact ⟨_, construct_of_legal (by omega) hh, toNat_ofInt_of_lt (by omega) (by omega),
      toInt_ofInt_of_upper_half hw hl (by omega)⟩

/-! ## Binary strings -/

@[simp] theorem toBinaryString_length {w : Nat} (p : BitVec w) : (toBinaryString p).length = w := by
  simp [toBinaryString]

theorem toBinaryString_getElem? {w i : Nat} (p : BitVec w) (h : i < w) :
    (toBinaryString p)[i]? = some (bitChar (p.getMsbD i)) := by
  simp [toBinaryString, h]

theorem bitChar_eq_one_iff (b : Bool) : bitChar b = '1' ↔ b = true := by cases b <;> decide

theorem bitChar_binary (b : Bool) : bitChar b = '0' ∨ bitChar b = '1' := by cases b <;> decide

theorem shiftIn_concat (w : Nat) (start : BitVec w) (s : List Char) (c : Char) :
    shiftIn w start (s ++ [c]) = (shiftIn w start s <<< 1) ||| (if c = '1' then 1#w else 0#w) := by
  simp [shiftIn]

/-- Shifting a string in puts its last character at bit 0 and moves the start pattern up by its length. -/
theorem getLsbD_shiftIn (w : Nat) (start : BitVec w) (s : List Char) (j : Nat) (hj : j < w) :
    (shiftIn w start s).getLsbD j =
      if j < s.length then decide (s.reverse[j]? = some '1') else start.getLsbD (j - s.length) := by
  induction s using List.reverseRecOn generalizing j with
  | nil => simp [shiftIn]
  | append_singleton s c ih =>
    rw [shiftIn_concat]
    cases j with
    | zero => by_cases hc : c = '1' <;> simp [hc, hj]
    | succ j =>
      have hbit : (if c = '1' then 1#w else 0#w).getLsbD (j + 1) = false := by split <;> simp
      rw [BitVec.getLsbD_or, BitVec.getLsbD_shiftLeft, hbit, Nat.add_sub_cancel, ih j (by omega)]
      simp [hj]

/-- The pattern of a binary string, sign-extended from its first character (R15). -/
def signExtendedString (w : Nat) (s : List Char) : BitVec w :=
  shiftIn w (if s.head? = some '1' then BitVec.allOnes w else 0#w) s

theorem fromBinaryString_of_binary {w : Nat} {s : List Char} (h1 : 1 ≤ s.length) (hw : s.length ≤ w)
    (hs : ∀ c ∈ s, c = '0' ∨ c = '1') :
    fromBinaryString w s = .ok (signExtendedString w s) := by
  rw [fromBinaryString, if_pos ⟨h1, hw, by simpa using hs⟩, signExtendedString]

/-- Its bits from the most significant end: copies of the first character, then the string. -/
theorem getMsbD_signExtendedString {w : Nat} {s : List Char} (hw : s.length ≤ w) (i : Nat) (hi : i < w) :
    (signExtendedString w s).getMsbD i =
      if i < w - s.length then decide (s[0]? = some '1') else decide (s[i - (w - s.length)]? = some '1') := by
  have hbit := getLsbD_shiftIn w (if s.head? = some '1' then BitVec.allOnes w else 0#w) s (w - 1 - i) (by omega)
  rw [BitVec.getMsbD_eq_getLsbD, signExtendedString, hbit]
  by_cases hfill : i < w - s.length
  · rw [if_neg (by omega), if_pos hfill, ← List.head?_eq_getElem?]
    by_cases hone : s.head? = some '1'
    · simp [hone, hi, show w - 1 - i - s.length < w by omega]
    · simp [hone]
  · have hidx : s.length - 1 - (w - 1 - i) = i - (w - s.length) := by omega
    rw [if_pos (by omega), if_neg hfill, List.getElem?_reverse (by omega), hidx]
    simp [hi]

/-- The round trip of R15. -/
theorem fromBinaryString_toBinaryString {w : Nat} (hw : 1 ≤ w) (p : BitVec w) :
    fromBinaryString w (toBinaryString p) = .ok p := by
  have hbin : ∀ c ∈ toBinaryString p, c = '0' ∨ c = '1' := by
    simp only [toBinaryString, List.mem_map]
    rintro _ ⟨i, -, rfl⟩
    exact bitChar_binary _
  rw [fromBinaryString_of_binary (by simpa) (by simp) hbin]
  congr 1
  refine BitVec.eq_of_getMsbD_eq fun i hi => ?_
  rw [getMsbD_signExtendedString (by simp) i hi]
  simp [toBinaryString_getElem? p hi, bitChar_eq_one_iff]

theorem fromBinaryString_error {w : Nat} {s : List Char} (h : s = [] ∨ w < s.length ∨ ∃ c ∈ s, c ≠ '0' ∧ c ≠ '1') :
    fromBinaryString w s = .error (.badString w s) := by
  refine if_neg ?_
  rintro ⟨h1, hw, hs⟩
  rw [List.all_eq_true] at hs
  obtain rfl | hlong | ⟨c, hc, h0, h1⟩ := h
  · simp at h1
  · omega
  · simpa [h0, h1] using hs c hc

/-! ## Slices -/

theorem getMsbD_slice {w a b i : Nat} (p : BitVec w) (hab : a ≤ b) (hb : b < w) (hi : i ≤ b - a) :
    (p.extractLsb' (w - 1 - b) (b - a + 1)).getMsbD i = p.getMsbD (a + i) := by
  simp only [BitVec.getMsbD_eq_getLsbD, BitVec.getLsbD_extractLsb']
  have hidx : w - 1 - b + (b - a + 1 - 1 - i) = w - 1 - (a + i) := by omega
  rw [hidx]
  simp (disch := omega) [show a + i < w by omega, show i < b - a + 1 by omega, show b - a - i < b - a + 1 by omega]

/-- Settles O6: strings by `getMsbD_signExtendedString`, slices by `getMsbD_slice`. -/
theorem stringsAndSlicesReadMostSignificantBitFirst : Obligations.StringsAndSlicesReadMostSignificantBitFirst := by
  unfold Obligations.StringsAndSlicesReadMostSignificantBitFirst
  refine ⟨fun w hw _ => ⟨fun p => ?_, fun s h1 hlen hs => ?_, fun s h => ⟨_, fromBinaryString_error h⟩⟩,
    fun w p a b => ⟨fun hab hb => ?_, fun h => ⟨_, if_neg h⟩, fun ha => ?_, fun ha => ⟨_, if_neg (by omega)⟩⟩⟩
  · exact ⟨toBinaryString_length p, fun i hi => toBinaryString_getElem? p hi, fromBinaryString_toBinaryString hw p⟩
  · refine ⟨_, fromBinaryString_of_binary h1 hlen hs, fun i hi => ?_, fun i hi => ?_⟩
    · rw [getMsbD_signExtendedString hlen i (by omega), if_pos hi]
    · rw [getMsbD_signExtendedString hlen _ (by omega), if_neg (by omega), Nat.add_sub_cancel_left]
  · exact ⟨_, if_pos ⟨hab, hb⟩, fun i hi => getMsbD_slice p hab hb hi⟩
  · exact ⟨_, if_pos ha, by simp⟩

/-! ## Shifts and rotations -/

theorem shift_left_eq {w : Nat} (p : BitVec w) (n : Nat) (m : ShiftMode) :
    shift p n .left m = BitVec.ofNat w (p.toNat * 2 ^ n) := by
  refine BitVec.eq_of_toNat_eq ?_
  simp [shift, Nat.shiftLeft_eq]

theorem shift_right_arithmetic_eq {w : Nat} (p : BitVec w) (n : Nat) :
    shift p n .right .arithmetic = BitVec.ofInt w (p.toInt / 2 ^ n) := by
  have hdiv : (p.sshiftRight n).toInt = p.toInt / 2 ^ n := by
    rw [BitVec.toInt_sshiftRight, Int.shiftRight_eq_div_pow]
    norm_cast
  rw [← hdiv, BitVec.ofInt_toInt]
  rfl

theorem shift_right_logical_toNat {w : Nat} (p : BitVec w) (n : Nat) :
    (shift p n .right .logical).toNat = p.toNat / 2 ^ n := by
  rw [shift, BitVec.toNat_ushiftRight, Nat.shiftRight_eq_div_pow]

/-- An arithmetic shift by the width or more leaves copies of the sign bit. -/
theorem shift_right_arithmetic_of_le {w n : Nat} (p : BitVec w) (h : w ≤ n) :
    shift p n .right .arithmetic = if p.msb then BitVec.allOnes w else 0 := by
  refine BitVec.eq_of_getMsbD_eq fun i hi => ?_
  rw [shift, BitVec.getMsbD_sshiftRight, if_pos (by omega)]
  cases p.msb <;> simp [hi]

theorem rotate_left_getMsbD {w i : Nat} (p : BitVec w) (n : Nat) (h : i < w) :
    (rotate p n .left).getMsbD i = p.getMsbD ((i + n) % w) := by
  rw [rotate, BitVec.rotateLeft_mod_eq_rotateLeft, BitVec.getMsbD_rotateLeft, Nat.add_comm n i]
  simp [h]

theorem rotate_right_getMsbD {w i : Nat} (p : BitVec w) (n : Nat) (h : i < w) :
    (rotate p n .right).getMsbD ((i + n) % w) = p.getMsbD i := by
  have hn : n % w < w := Nat.mod_lt _ (by omega)
  rw [rotate, BitVec.rotateRight_mod_eq_rotateRight, BitVec.getMsbD_rotateRight, ← Nat.add_mod_mod]
  by_cases hwrap : i + n % w < w
  · simp [Nat.mod_eq_of_lt hwrap, hwrap]
  · have hmod : (i + n % w) % w = i + n % w - w := by
      rw [Nat.mod_eq_sub_mod (by omega), Nat.mod_eq_of_lt (by omega)]
    have hback : w + (i + n % w - w) - n % w = i := by omega
    rw [hmod, if_pos (by omega), hback, Nat.mod_eq_of_lt h]
    simp [show i + n % w - w < w by omega]

/-- A rotation by the width moves no bit. -/
theorem rotate_width {w : Nat} (p : BitVec w) (d : Direction) : rotate p w d = p := by
  cases d with
  | left => simp [rotate, BitVec.rotateLeft_def, BitVec.ushiftRight_eq_zero]
  | right => simp [rotate, BitVec.rotateRight_def]

/-- Settles O7: each shift by its formula, rotations bit by bit. -/
theorem shiftsAndRotationsFollowTheirFormulas : Obligations.ShiftsAndRotationsFollowTheirFormulas := by
  unfold Obligations.ShiftsAndRotationsFollowTheirFormulas
  constructor
  · intro w p n m _
    exact ⟨shift_left_eq p n m, shift_right_logical_toNat p n, shift_right_arithmetic_eq p n, fun h =>
      ⟨BitVec.shiftLeft_eq_zero h, BitVec.ushiftRight_eq_zero h, shift_right_arithmetic_of_le p h⟩⟩
  · intro w p n i hi
    exact ⟨rotate_left_getMsbD p n hi, rotate_right_getMsbD p n hi, rotate_width p .left, rotate_width p .right⟩

end Sys2Proof.Machine
end

section
/-!
PROOFS. Construction of the machine (10_state.md R32) and the host's named registers (R31).
-/

namespace Sys2Proof.Machine

open Sys2Proof

/-! ## The state after construction -/

/-- Settles O45: no cell is listed, and the registers and units are closed data. -/
theorem constructionLeavesTheStatedValues : Obligations.ConstructionLeavesTheStatedValues := by
  unfold Obligations.ConstructionLeavesTheStatedValues
  exact ⟨fun a => rfl, by decide⟩

/-- Settles O50: the invariant is a test on the closed state of construction. -/
theorem runInvariantHoldsAtConstruction : Obligations.RunInvariantHoldsAtConstruction := by
  unfold Obligations.RunInvariantHoldsAtConstruction
  decide

/-! ## Constructions and requests made by the host -/

theorem construct_word (n : Int) :
    construct 20 n = if -524287 ≤ n ∧ n ≤ 1048575 then .ok (BitVec.ofInt 20 n) else .error (.construction 20 n) := by
  rw [construct_eq_ite]
  norm_num

theorem construct_addr (n : Int) :
    construct 13 n = if -4095 ≤ n ∧ n ≤ 8191 then .ok (BitVec.ofInt 13 n) else .error (.construction 13 n) := by
  rw [construct_eq_ite]
  norm_num

theorem hostConstruct_word (s : State) (n : Int) (k : Word → HostReply × State) :
    hostConstruct s 20 n k =
      if -524287 ≤ n ∧ n ≤ 1048575 then k (BitVec.ofInt 20 n) else (.constructionError 20 n, s) := by
  rw [hostConstruct, construct_word]
  split_ifs <;> rfl

theorem hostConstruct_addr (s : State) (n : Int) (k : Addr → HostReply × State) :
    hostConstruct s 13 n k =
      if -4095 ≤ n ∧ n ≤ 8191 then k (BitVec.ofInt 13 n) else (.constructionError 13 n, s) := by
  rw [hostConstruct, construct_addr]
  split_ifs <;> rfl

theorem hostRequest_setMAR (s : State) (n : Int) :
    hostRequest s (s.setMAR n) =
      if s.mstate.busy then (.refused, s)
      else if -4095 ≤ n ∧ n ≤ 8191 then (.success, { s with mar := BitVec.ofInt 13 n, mstate := .preFetch })
      else (.constructionError 13 n, s) := by
  rw [State.setMAR, construct_addr]
  split_ifs <;> rfl

theorem hostRequest_setMBR (s : State) (p : Word) :
    hostRequest s (s.setMBR p) =
      if s.mstate.busy then (.refused, s) else (.success, { s with mbr := p, mstate := .preStore }) := by
  rw [State.setMBR]
  split <;> rfl

/-! ## Writes and reads by name -/

theorem writeRegister_mbr_of_legal (s : State) {n : Int} (h : -524287 ≤ n ∧ n ≤ 1048575) :
    s.writeRegister .mbr n =
      if s.mstate.busy then (.refused, s) else (.success, { s with mbr := BitVec.ofInt 20 n, mstate := .preStore }) := by
  rw [State.writeRegister, hostConstruct_word, if_pos h, hostRequest_setMBR]

theorem writeRegister_mbr_of_illegal (s : State) {n : Int} (h : ¬(-524287 ≤ n ∧ n ≤ 1048575)) :
    s.writeRegister .mbr n = (.constructionError 20 n, s) := by
  rw [State.writeRegister, hostConstruct_word, if_neg h]

theorem perform_readRegister_cc (s : State) :
    s.perform (.readRegister .cc) =
      (.value (8 * (ccBit s.cc ccOVF).toNat + 4 * (ccBit s.cc ccUNF).toNat + 2 * (ccBit s.cc ccDVZ).toNat +
        (ccBit s.cc ccEQ).toNat), s) := by
  rw [← cc_toNat]
  rfl

/-- Settles O58: writes by `hostConstruct` and `hostRequest`, reads by `cc_toNat` and by definition. -/
theorem hostWritesConstructOrLeaveTheRegister : Obligations.HostWritesConstructOrLeaveTheRegister := by
  unfold Obligations.HostWritesConstructOrLeaveTheRegister
  constructor
  · intro s n
    exact ⟨fun _ => hostConstruct_word s n _, fun _ => hostConstruct_addr s n _, hostConstruct_addr s n _,
      hostConstruct_word s n _, hostRequest_setMAR s n, fun h => writeRegister_mbr_of_legal s h,
      fun h => ⟨fun _ => writeRegister_mbr_of_illegal s h, fun _ => .inl (writeRegister_mbr_of_illegal s h)⟩, rfl⟩
  · intro s
    exact ⟨fun _ => rfl, rfl, rfl, rfl, rfl, rfl, rfl, rfl, perform_readRegister_cc s⟩

end Sys2Proof.Machine
end

section
/-!
PROOFS. What one tick can do to memory, CC, MSR and MFR (10_state.md R23, R24, R26), said for the control unit once and
carried through the ticks and the host's actions.
-/

namespace Sys2Proof.Machine

open Sys2Proof

/-! ## Requests as branches -/

/-- A microstep that goes on after `setMAR`: it stalls on a busy unit, else constructs the address. -/
theorem orStall_setMAR (s u : State) (x : Int) (k : State → PhaseResult) :
    orStall s (u.setMAR x) k =
      if u.mstate.busy then .done s
      else orRaise (construct 13 x) fun v => k { u with mar := v, mstate := .preFetch } := by
  rw [State.setMAR]
  split
  · rfl
  · cases construct 13 x <;> rfl

/-- A microstep that goes on after `setMBR`: it stalls on a busy unit. -/
theorem orStall_setMBR (s u : State) (p : Word) (k : State → PhaseResult) :
    orStall s (u.setMBR p) k = if u.mstate.busy then .done s else k { u with mbr := p, mstate := .preStore } := by
  rw [State.setMBR]
  split <;> rfl

/-! ## Every state a phase can answer -/

/-- `P` holds of the state a phase answers, if it answers one. -/
def PhaseResult.Ensures (P : State → Prop) : PhaseResult → Prop
  | .done s => P s
  | .raise _ => True
  | .noRule => True

theorem ensures_iff (P : State → Prop) (r : PhaseResult) : r.Ensures P ↔ ∀ s, r = .done s → P s := by
  cases r <;> simp [PhaseResult.Ensures]

section

variable (P : State → Prop)

@[simp] theorem ensures_done (s : State) : (PhaseResult.done s).Ensures P ↔ P s := .rfl

@[simp] theorem ensures_raise (k : FaultKind) : (PhaseResult.raise k).Ensures P := trivial

@[simp] theorem ensures_noRule : PhaseResult.noRule.Ensures P := trivial

@[simp] theorem ensures_orRaise {α : Type} (c : Except FaultKind α) (k : α → PhaseResult) :
    (orRaise c k).Ensures P ↔ ∀ v, c = .ok v → (k v).Ensures P := by
  cases c <;> simp [orRaise]

@[simp] theorem ensures_withEa (s : State) (k : Nat → PhaseResult) :
    (s.withEa k).Ensures P ↔ ∀ ea, s.ea = some ea → (k ea).Ensures P := by
  unfold State.withEa
  split <;> simp_all

@[simp] theorem ensures_withResult (s : State) (k : Word → PhaseResult) :
    (s.withResult k).Ensures P ↔ ∀ v, s.astate = .finished → s.result = some v → (k v).Ensures P := by
  unfold State.withResult
  split <;> simp_all

@[simp] theorem ensures_ite (c : Prop) [Decidable c] (p q : PhaseResult) :
    (if c then p else q).Ensures P ↔ (c → p.Ensures P) ∧ (¬c → q.Ensures P) := by
  split <;> simp_all

end

/-! ## What the control unit leaves unchanged -/

/-- What every microstep leaves of `s`. -/
structure State.ControlUnitFrame (s t : State) : Prop where
  /-- The control unit does not touch the store: it goes through MAR and MBR. -/
  mem : t.mem = s.mem
  /-- R23. -/
  msr : t.msr = s.msr
  /-- R24. -/
  mfr : t.mfr = s.mfr
  /-- CC is as it was, cleared (R26), or has EQ written (45_shift_logical.md R122). -/
  cc : t.cc = s.cc ∨ t.cc = 0 ∨ ∃ b, t.cc = ccWithEqual s.cc b

theorem controlUnitFrame_iff (s t : State) :
    s.ControlUnitFrame t ↔ t.mem = s.mem ∧ t.msr = s.msr ∧ t.mfr = s.mfr ∧
      (t.cc = s.cc ∨ t.cc = 0 ∨ ∃ b, t.cc = ccWithEqual s.cc b) :=
  ⟨fun ⟨h1, h2, h3, h4⟩ => ⟨h1, h2, h3, h4⟩, fun ⟨h1, h2, h3, h4⟩ => ⟨h1, h2, h3, h4⟩⟩

/-- Completion writes PC and the latches only. -/
theorem complete_frame {s u : State} (h : s.ControlUnitFrame u) : u.complete.Ensures s.ControlUnitFrame := by
  rw [ensures_iff]
  intro t ht
  obtain ⟨p, rfl, -⟩ := complete_done ht
  exact ⟨h.mem, h.msr, h.mfr, h.cc⟩

theorem fetchMicrostep_frame (s : State) : (fetchMicrostep s).Ensures s.ControlUnitFrame := by
  unfold fetchMicrostep
  split <;> simp [orStall_setMAR, controlUnitFrame_iff, State.enter, State.nextMicro]

theorem decodeMicrostep_frame (op : BitVec 6) (f : Fields) (s : State) :
    (decodeMicrostep op f s).Ensures s.ControlUnitFrame := by
  unfold decodeMicrostep decodeStart
  repeat' split
  all_goals simp [orStall_setMAR, controlUnitFrame_iff, State.enter, State.nextMicro]

theorem jumpWhen_frame (taken : Bool) (s : State) : (jumpWhen taken s).Ensures s.ControlUnitFrame := by
  simp [jumpWhen, State.jumpTo, complete_frame, controlUnitFrame_iff]

theorem executeMicrostep_frame (i : Instr) (s : State) : (executeMicrostep i s).Ensures s.ControlUnitFrame := by
  cases i with
  | hlt f =>
    simp only [executeMicrostep, hltMicrostep]
    split <;> simp [controlUnitFrame_iff]
  | ldr f | str f | lda f | ldx f | stx f =>
    simp only [executeMicrostep, ldrMicrostep, strMicrostep, ldaMicrostep, ldxMicrostep, stxMicrostep]
    repeat' split
    all_goals simp [orStall_setMAR, orStall_setMBR, complete_frame, controlUnitFrame_iff]
  | amr f | smr f | air f | sir f | and f =>
    simp only [executeMicrostep, amrMicrostep, smrMicrostep, airMicrostep, sirMicrostep, andMicrostep, Config.smrOrder]
    split <;> simp [orStall_setMAR, complete_frame, controlUnitFrame_iff]
  | jz f | jne f | jcc f | jmp f | jge f =>
    simp only [executeMicrostep, jzMicrostep, jneMicrostep, jccMicrostep, jmpMicrostep, jgeMicrostep]
    split <;> simp [jumpWhen_frame]
  | jsr f | rfs f | sob f =>
    simp only [executeMicrostep, jsrMicrostep, rfsMicrostep, sobMicrostep]
    split <;> simp [State.jumpTo, complete_frame, controlUnitFrame_iff]
  | src f | rrc f | trr f | orr f | not f =>
    simp only [executeMicrostep, srcMicrostep, rrcMicrostep, trrMicrostep, orrMicrostep, notMicrostep]
    split <;> simp [complete_frame, controlUnitFrame_iff]

/-- Every microstep of the control unit keeps `State.ControlUnitFrame`. -/
theorem controlUnitPhase_frame {s t : State} (h : controlUnitPhase s = .done t) : s.ControlUnitFrame t := by
  have hall : (controlUnitPhase s).Ensures s.ControlUnitFrame := by
    unfold controlUnitPhase
    split
    · exact fetchMicrostep_frame s
    · exact decodeMicrostep_frame _ _ s
    · split
      · simp
      · split
        · exact executeMicrostep_frame _ s
        · simp [unhandledMicrostep]
  exact (ensures_iff _ _).1 hall t h

/-! ## The basic invariant -/

theorem basicInv_iff (s : State) :
    s.basicInv = true ↔ s.mem.wf = true ∧ ccBit s.cc ccUNF = false ∧ ccBit s.cc ccDVZ = false ∧
      s.msr = Config.regReset.msr ∧ s.mfr = Config.regReset.mfr := by
  simp [State.basicInv, and_assoc]

theorem mem_wf_of_basicInv {s : State} (h : s.basicInv = true) : s.mem.wf = true := ((basicInv_iff s).1 h).1

/-- The basic invariant speaks of memory, CC.UNF, CC.DVZ, MSR and MFR only. -/
theorem basicInv_of_same {s t : State} (h : s.basicInv = true) (hmem : t.mem.wf = true)
    (hunf : ccBit t.cc ccUNF = ccBit s.cc ccUNF) (hdvz : ccBit t.cc ccDVZ = ccBit s.cc ccDVZ) (hmsr : t.msr = s.msr)
    (hmfr : t.mfr = s.mfr) : t.basicInv = true := by
  rw [basicInv_iff] at h ⊢
  rw [hunf, hdvz, hmsr, hmfr]
  exact ⟨hmem, h.2⟩

theorem takeFault_keeps_basicInv {s : State} (k : FaultKind) (ph : TickPhase) (h : s.basicInv = true) :
    (s.takeFault k ph).basicInv = true := h

theorem controlUnitPhase_keeps_basicInv {s t : State} (h : s.basicInv = true) (ht : controlUnitPhase s = .done t) :
    t.basicInv = true := by
  obtain ⟨hmem, hmsr, hmfr, hcc⟩ := controlUnitPhase_frame ht
  obtain ⟨hwf, hunf, hdvz, hmsr', hmfr'⟩ := (basicInv_iff s).1 h
  rw [basicInv_iff, hmem, hmsr, hmfr]
  obtain hsame | hclear | ⟨b, hequal⟩ := hcc
  · rw [hsame]
    exact ⟨hwf, hunf, hdvz, hmsr', hmfr'⟩
  · rw [hclear]
    exact ⟨hwf, by decide, by decide, hmsr', hmfr'⟩
  · rw [hequal, ccBit_ccWithEqual_of_ne _ _ (by decide), ccBit_ccWithEqual_of_ne _ _ (by decide)]
    exact ⟨hwf, hunf, hdvz, hmsr', hmfr'⟩

/-- The ALU writes CC.OVF alone (41_alu.md R94, R95). -/
theorem aluPhase_keeps_basicInv {s t : State} (h : s.basicInv = true) (ht : aluPhase s = .done t) :
    t.basicInv = true := by
  obtain ⟨-, rfl⟩ | ⟨-, rfl⟩ | ⟨-, _, _, _, ⟨v, ovf⟩, -, -, -, -, rfl⟩ := aluPhase_done ht
  · exact h
  · exact h
  · cases ovf with
    | none => exact h
    | some b =>
      have hwf := mem_wf_of_basicInv h
      exact basicInv_of_same h hwf (ccBit_ccWithOverflow_of_ne _ _ (by decide))
        (ccBit_ccWithOverflow_of_ne _ _ (by decide)) rfl rfl

theorem memoryPhase_keeps_basicInv {s t : State} (h : s.basicInv = true) (ht : memoryPhase s = .done t) :
    t.basicInv = true := by
  have hwf := memoryPhase_keeps_wf s t ht (mem_wf_of_basicInv h)
  obtain ⟨-, -, rfl⟩ | ⟨-, -, rfl⟩ | ⟨-, rfl⟩ | ⟨-, rfl⟩ := memoryPhase_done ht
  all_goals exact basicInv_of_same h hwf rfl rfl rfl rfl

theorem tick_keeps_basicInv {s t : State} (h : s.basicInv = true) (ht : tick s = .next t) : t.basicInv = true := by
  obtain ⟨-, rfl⟩ | ⟨-, k, -, rfl⟩ | ⟨-, s1, k, h1, -, rfl⟩ | ⟨-, s1, s2, k, h1, h2, -, rfl⟩ |
    ⟨-, s1, s2, h1, h2, h3⟩ := tickWith_next ht
  · exact h
  · exact takeFault_keeps_basicInv k _ h
  · exact takeFault_keeps_basicInv k _ (controlUnitPhase_keeps_basicInv h h1)
  · exact takeFault_keeps_basicInv k _ (aluPhase_keeps_basicInv (controlUnitPhase_keeps_basicInv h h1) h2)
  · exact memoryPhase_keeps_basicInv (aluPhase_keeps_basicInv (controlUnitPhase_keeps_basicInv h h1) h2) h3

/-! ## The host's actions -/

theorem hostConstruct_keeps_basicInv {s : State} {w : Nat} {n : Int} {k : BitVec w → HostReply × State}
    (hs : s.basicInv = true) (hk : ∀ v, (k v).2.basicInv = true) : (hostConstruct s w n k).2.basicInv = true := by
  unfold hostConstruct
  split
  · exact hk _
  · exact hs

theorem hostRequest_keeps_basicInv {s : State} {q : Request} (hs : s.basicInv = true)
    (hq : ∀ t, q = .accepted t → t.basicInv = true) : (hostRequest s q).2.basicInv = true := by
  cases q with
  | accepted t => exact hq t rfl
  | refused => exact hs
  | failed e => exact hs

theorem writeRegister_keeps_basicInv {s : State} (r : RegName) (n : Int) (h : s.basicInv = true) :
    (s.writeRegister r n).2.basicInv = true := by
  cases r with
  | general i => exact hostConstruct_keeps_basicInv h fun _ => h
  | index i => exact hostConstruct_keeps_basicInv h fun _ => h
  | pc => exact hostConstruct_keeps_basicInv h fun _ => h
  | ir => exact hostConstruct_keeps_basicInv h fun _ => h
  | cc => exact h
  | mar =>
    refine hostRequest_keeps_basicInv h fun t ht => ?_
    obtain ⟨-, v, -, rfl⟩ := setMAR_accepted ht
    exact h
  | mbr =>
    refine hostConstruct_keeps_basicInv h fun v => hostRequest_keeps_basicInv h fun t ht => ?_
    obtain ⟨-, rfl⟩ := setMBR_accepted ht
    exact h

theorem engineerSet_keeps_basicInv {s : State} (a : Nat) (n : Int) (h : s.basicInv = true) :
    (s.engineerSet a n).2.basicInv = true := by
  have hwf := engineerSet_keeps_wf s a n (mem_wf_of_basicInv h)
  revert hwf
  unfold State.engineerSet hostConstruct
  split
  · split
    · exact fun hwf => basicInv_of_same h hwf rfl rfl rfl rfl
    · exact fun _ => h
  · exact fun _ => h

theorem engineerFetch_state (s : State) (a : Nat) : (s.engineerFetch a).2 = s := by
  unfold State.engineerFetch
  split <;> rfl

theorem perform_keeps_basicInv {s : State} (a : HostAction) (h : s.basicInv = true) :
    (s.perform a).2.basicInv = true := by
  cases a with
  | readRegister r => exact h
  | writeRegister r n => exact writeRegister_keeps_basicInv r n h
  | engineerSet a n => exact engineerSet_keeps_basicInv a n h
  | engineerFetch a =>
    rw [State.perform, engineerFetch_state]
    exact h
  | observe => exact h

/-- A run of events that begins with a tick, by what the tick answers. -/
theorem runEvents_clockCycle_next {es : List Event} {s t : State} (h : runEvents (.clockCycle :: es) s = .next t) :
    ∃ u, tick s = .next u ∧ runEvents es u = .next t := by
  rw [runEvents] at h
  cases hu : tick s with
  | next u => exact ⟨u, rfl, by simpa only [hu] using h⟩
  | fault r => simp [hu] at h
  | refused r => simp [hu] at h

/-- Settles O54, by induction on the events: a tick by `tick_keeps_basicInv`, a host action by
`perform_keeps_basicInv`. -/
theorem everyEventKeepsTheBasicInvariant : Obligations.EveryEventKeepsTheBasicInvariant := by
  unfold Obligations.EveryEventKeepsTheBasicInvariant
  intro es
  induction es with
  | nil =>
    intro s t h ht
    cases ht
    exact h
  | cons e es ih =>
    intro s t h ht
    cases e with
    | clockCycle =>
      obtain ⟨u, hu, hrest⟩ := runEvents_clockCycle_next ht
      exact ih u t (tick_keeps_basicInv h hu) hrest
    | host a => exact ih _ t (perform_keeps_basicInv a h) ht

end Sys2Proof.Machine
end

section
/-!
PROOFS. MSR and MFR have no effect on anything (10_state.md R23, R24): every operation commutes with putting other values
in them. That nothing writes them follows, since putting their own values back changes nothing.
-/

namespace Sys2Proof.Machine

open Sys2Proof

/-! ## Other values in MSR and MFR -/

/-- A state with other values in MSR and MFR. -/
def State.withMsrMfr (s : State) (a : Word) (b : BitVec 4) : State := { s with msr := a, mfr := b }

/-- The answer of a phase, with other values in MSR and MFR of its state. -/
def PhaseResult.withMsrMfr (r : PhaseResult) (a : Word) (b : BitVec 4) : PhaseResult :=
  match r with
  | .done s => .done (s.withMsrMfr a b)
  | .raise k => .raise k
  | .noRule => .noRule

/-- The outcome of a tick or of a run, with other values in MSR and MFR of its state. -/
def outcomeWithMsrMfr (o : Host.Outcome State Fault Refusal) (a : Word) (b : BitVec 4) :
    Host.Outcome State Fault Refusal :=
  match o with
  | .next s => .next (s.withMsrMfr a b)
  | .fault r => .fault r
  | .refused r => .refused r

theorem State.withMsrMfr_self (s : State) : s.withMsrMfr s.msr s.mfr = s := rfl

section

variable (a : Word) (b : BitVec 4)

@[simp] theorem State.withMsrMfr_top (s : State) : (s.withMsrMfr a b).top = s.top := rfl

@[simp] theorem State.withMsrMfr_micro (s : State) : (s.withMsrMfr a b).micro = s.micro := rfl

@[simp] theorem State.withMsrMfr_dec (s : State) : (s.withMsrMfr a b).dec = s.dec := rfl

@[simp] theorem State.withMsrMfr_index (s : State) : (s.withMsrMfr a b).index = s.index := rfl

@[simp] theorem State.withMsrMfr_mar (s : State) : (s.withMsrMfr a b).mar = s.mar := rfl

@[simp] theorem State.withMsrMfr_astate (s : State) : (s.withMsrMfr a b).astate = s.astate := rfl

@[simp] theorem State.withMsrMfr_op1 (s : State) : (s.withMsrMfr a b).op1 = s.op1 := rfl

@[simp] theorem State.withMsrMfr_op2 (s : State) : (s.withMsrMfr a b).op2 = s.op2 := rfl

@[simp] theorem State.withMsrMfr_ctrl (s : State) : (s.withMsrMfr a b).ctrl = s.ctrl := rfl

@[simp] theorem State.withMsrMfr_mstate (s : State) : (s.withMsrMfr a b).mstate = s.mstate := rfl

/-! ## How the parts of a microstep pass it on -/

@[simp] theorem withMsrMfr_done (s : State) :
    (PhaseResult.done s).withMsrMfr a b = .done (s.withMsrMfr a b) := rfl

@[simp] theorem withMsrMfr_raise (k : FaultKind) : (PhaseResult.raise k).withMsrMfr a b = .raise k := rfl

@[simp] theorem withMsrMfr_noRule : PhaseResult.noRule.withMsrMfr a b = .noRule := rfl

@[simp] theorem withMsrMfr_orRaise {α : Type} (c : Except FaultKind α) (k : α → PhaseResult) :
    (orRaise c k).withMsrMfr a b = orRaise c fun v => (k v).withMsrMfr a b := by
  cases c <;> rfl

@[simp] theorem withMsrMfr_withEa (s : State) (k : Nat → PhaseResult) :
    (s.withEa k).withMsrMfr a b = s.withEa fun ea => (k ea).withMsrMfr a b := by
  unfold State.withEa
  split <;> rfl

@[simp] theorem withMsrMfr_withResult (s : State) (k : Word → PhaseResult) :
    (s.withResult k).withMsrMfr a b = s.withResult fun v => (k v).withMsrMfr a b := by
  unfold State.withResult
  split <;> rfl

@[simp] theorem withMsrMfr_ite (c : Prop) [Decidable c] (p q : PhaseResult) :
    (if c then p else q).withMsrMfr a b = if c then p.withMsrMfr a b else q.withMsrMfr a b := by
  split <;> rfl

@[simp] theorem withMsrMfr_complete (s : State) : s.complete.withMsrMfr a b = (s.withMsrMfr a b).complete := by
  cases h : s.nextPC with
  | some p =>
    rw [complete_of_jump h, complete_of_jump (s := s.withMsrMfr a b) h]
    rfl
  | none =>
    rw [complete_of_no_target h, complete_of_no_target (s := s.withMsrMfr a b) h, withMsrMfr_orRaise]
    rfl

/-! ## The control unit -/

theorem fetchMicrostep_withMsrMfr (s : State) :
    fetchMicrostep (s.withMsrMfr a b) = (fetchMicrostep s).withMsrMfr a b := by
  simp only [fetchMicrostep, State.withMsrMfr_micro]
  split
  · simp only [orStall_setMAR, withMsrMfr_ite, withMsrMfr_orRaise, withMsrMfr_done]
    rfl
  · rfl
  · rfl

theorem decodeStart_withMsrMfr (op : BitVec 6) (f : Fields) (s : State) :
    decodeStart op f (s.withMsrMfr a b) = (decodeStart op f s).withMsrMfr a b := by
  unfold decodeStart
  repeat' split
  all_goals rfl

theorem decodeMicrostep_withMsrMfr (op : BitVec 6) (f : Fields) (s : State) :
    decodeMicrostep op f (s.withMsrMfr a b) = (decodeMicrostep op f s).withMsrMfr a b := by
  simp only [decodeMicrostep, State.withMsrMfr_micro, State.withMsrMfr_dec, decodeStart_withMsrMfr]
  repeat' split
  all_goals simp [orStall_setMAR] <;> rfl

@[simp] theorem withMsrMfr_jumpWhen (taken : Bool) (s : State) :
    (jumpWhen taken s).withMsrMfr a b = jumpWhen taken (s.withMsrMfr a b) := by
  simp only [jumpWhen, State.jumpTo, withMsrMfr_ite, withMsrMfr_withEa, withMsrMfr_orRaise, withMsrMfr_complete]
  rfl

theorem executeMicrostep_withMsrMfr (i : Instr) (s : State) :
    executeMicrostep i (s.withMsrMfr a b) = (executeMicrostep i s).withMsrMfr a b := by
  cases i with
  | hlt f =>
    simp only [executeMicrostep, hltMicrostep, State.withMsrMfr_micro]
    split <;> rfl
  | ldr f | str f | lda f | ldx f | stx f =>
    simp only [executeMicrostep, ldrMicrostep, strMicrostep, ldaMicrostep, ldxMicrostep, stxMicrostep,
      State.withMsrMfr_micro, State.withMsrMfr_index]
    repeat' split
    all_goals simp [orStall_setMAR, orStall_setMBR] <;> rfl
  | amr f | smr f | air f | sir f | and f =>
    simp only [executeMicrostep, amrMicrostep, smrMicrostep, airMicrostep, sirMicrostep, andMicrostep, Config.smrOrder,
      State.withMsrMfr_micro]
    split <;> simp [orStall_setMAR] <;> rfl
  | jz f | jne f | jcc f | jmp f | jge f =>
    simp only [executeMicrostep, jzMicrostep, jneMicrostep, jccMicrostep, jmpMicrostep, jgeMicrostep,
      State.withMsrMfr_micro]
    split
    · exact (withMsrMfr_jumpWhen a b _ s).symm
    · rfl
  | jsr f | rfs f | sob f =>
    simp only [executeMicrostep, jsrMicrostep, rfsMicrostep, sobMicrostep, State.withMsrMfr_micro]
    split <;> simp [State.jumpTo] <;> rfl
  | src f | rrc f | trr f | orr f | not f =>
    simp only [executeMicrostep, srcMicrostep, rrcMicrostep, trrMicrostep, orrMicrostep, notMicrostep,
      State.withMsrMfr_micro]
    split
    · rw [withMsrMfr_complete]
      rfl
    · rfl

theorem controlUnitPhase_withMsrMfr (s : State) :
    controlUnitPhase (s.withMsrMfr a b) = (controlUnitPhase s).withMsrMfr a b := by
  simp only [controlUnitPhase, State.withMsrMfr_top, State.withMsrMfr_dec]
  split
  · exact fetchMicrostep_withMsrMfr a b s
  · exact decodeMicrostep_withMsrMfr a b _ _ s
  · split
    · rfl
    · split
      · exact executeMicrostep_withMsrMfr a b _ s
      · rfl

/-! ## The tick -/

theorem aluPhase_withMsrMfr (s : State) : aluPhase (s.withMsrMfr a b) = (aluPhase s).withMsrMfr a b := by
  simp only [aluPhase, State.withMsrMfr_astate, State.withMsrMfr_op1, State.withMsrMfr_op2, State.withMsrMfr_ctrl]
  repeat' split
  all_goals simp <;> rfl

theorem memoryPhase_withMsrMfr (s : State) : memoryPhase (s.withMsrMfr a b) = (memoryPhase s).withMsrMfr a b := by
  simp only [memoryPhase, State.withMsrMfr_mstate, State.withMsrMfr_mar]
  split
  case h_1 | h_2 =>
    rw [withMsrMfr_ite]
    rfl
  all_goals rfl

/-- A phase passes the values on to the outcome of the tick when the phases after it do. -/
theorem andThen_withMsrMfr (r : PhaseResult) (s : State) (ph : TickPhase)
    {k : State → Host.Outcome State Fault Refusal}
    (hk : ∀ t, k (t.withMsrMfr a b) = outcomeWithMsrMfr (k t) a b) :
    (r.withMsrMfr a b).andThen (s.withMsrMfr a b) ph k = outcomeWithMsrMfr (r.andThen s ph k) a b := by
  cases r with
  | done t => exact hk t
  | raise e => rfl
  | noRule => rfl

theorem tick_withMsrMfr (s : State) : tick (s.withMsrMfr a b) = outcomeWithMsrMfr (tick s) a b := by
  by_cases hs : s.stopped = true
  · rw [tick, tick, tickWith_stopped hs, tickWith_stopped (s := s.withMsrMfr a b) hs]
    rfl
  · rw [tick, tickWith, if_neg (show ¬(s.withMsrMfr a b).stopped = true from hs), tick, tickWith, if_neg hs,
      controlUnitPhase_withMsrMfr]
    refine andThen_withMsrMfr a b _ s _ fun s1 => ?_
    rw [aluPhase_withMsrMfr]
    refine andThen_withMsrMfr a b _ s1 _ fun s2 => ?_
    rw [memoryPhase_withMsrMfr]
    exact andThen_withMsrMfr a b _ s2 _ fun s3 => rfl

/-! ## The host's actions -/

/-- A host's answer with other values in MSR and MFR of the state beside it. -/
def answerWithMsrMfr (p : HostReply × State) : HostReply × State := (p.1, p.2.withMsrMfr a b)

theorem hostConstruct_withMsrMfr (s : State) (w : Nat) (n : Int) {k k' : BitVec w → HostReply × State}
    (hk : ∀ v, k' v = answerWithMsrMfr a b (k v)) :
    hostConstruct (s.withMsrMfr a b) w n k' = answerWithMsrMfr a b (hostConstruct s w n k) := by
  unfold hostConstruct
  split
  · exact hk _
  · rfl

theorem hostRequest_setMAR_withMsrMfr (s : State) (n : Int) :
    hostRequest (s.withMsrMfr a b) ((s.withMsrMfr a b).setMAR n) =
      answerWithMsrMfr a b (hostRequest s (s.setMAR n)) := by
  rw [hostRequest_setMAR, hostRequest_setMAR, State.withMsrMfr_mstate]
  split_ifs <;> rfl

theorem hostRequest_setMBR_withMsrMfr (s : State) (p : Word) :
    hostRequest (s.withMsrMfr a b) ((s.withMsrMfr a b).setMBR p) =
      answerWithMsrMfr a b (hostRequest s (s.setMBR p)) := by
  rw [hostRequest_setMBR, hostRequest_setMBR, State.withMsrMfr_mstate]
  split_ifs <;> rfl

theorem writeRegister_withMsrMfr (s : State) (r : RegName) (n : Int) :
    (s.withMsrMfr a b).writeRegister r n = answerWithMsrMfr a b (s.writeRegister r n) := by
  cases r with
  | general i => exact hostConstruct_withMsrMfr a b s 20 n fun _ => rfl
  | index i => exact hostConstruct_withMsrMfr a b s 13 n fun _ => rfl
  | pc => exact hostConstruct_withMsrMfr a b s 13 n fun _ => rfl
  | ir => exact hostConstruct_withMsrMfr a b s 20 n fun _ => rfl
  | mar => exact hostRequest_setMAR_withMsrMfr a b s n
  | mbr => exact hostConstruct_withMsrMfr a b s 20 n fun v => hostRequest_setMBR_withMsrMfr a b s v
  | cc => rfl

theorem perform_withMsrMfr (s : State) (h : HostAction) :
    (s.withMsrMfr a b).perform h = answerWithMsrMfr a b (s.perform h) := by
  cases h with
  | readRegister r => cases r <;> rfl
  | writeRegister r n => exact writeRegister_withMsrMfr a b s r n
  | engineerSet i n =>
    simp only [State.perform, State.engineerSet]
    split
    · exact hostConstruct_withMsrMfr a b s 20 n fun _ => rfl
    · rfl
  | engineerFetch i =>
    simp only [State.perform, State.engineerFetch]
    split <;> rfl
  | observe => rfl

/-! ## Runs -/

theorem runEvents_withMsrMfr (es : List Event) (s : State) :
    runEvents es (s.withMsrMfr a b) = outcomeWithMsrMfr (runEvents es s) a b := by
  induction es generalizing s with
  | nil => rfl
  | cons e es ih =>
    cases e with
    | clockCycle =>
      rw [runEvents, tick_withMsrMfr, runEvents]
      cases tick s with
      | next t => exact ih t
      | fault r => rfl
      | refused r => rfl
    | host h =>
      rw [runEvents, perform_withMsrMfr]
      exact ih _

end

/-- A run writes neither register: put back what they held, and the run ends as it did. -/
theorem runEvents_keeps_msr_mfr {es : List Event} {s t : State} (h : runEvents es s = .next t) :
    t.msr = s.msr ∧ t.mfr = s.mfr := by
  have hback := runEvents_withMsrMfr s.msr s.mfr es s
  rw [State.withMsrMfr_self, h, outcomeWithMsrMfr, Host.Outcome.next.injEq] at hback
  rw [hback]
  exact ⟨rfl, rfl⟩

/-- Settles O55: runs and answers commute with other values in the two registers. -/
theorem msrAndMfrAreNeitherReadNorWritten : Obligations.MsrAndMfrAreNeitherReadNorWritten := by
  unfold Obligations.MsrAndMfrAreNeitherReadNorWritten
  intro es s a b
  have hrun : runEvents es { s with msr := a, mfr := b } = outcomeWithMsrMfr (runEvents es s) a b :=
    runEvents_withMsrMfr a b es s
  have hanswer : ∀ h, State.perform { s with msr := a, mfr := b } h = answerWithMsrMfr a b (s.perform h) :=
    perform_withMsrMfr a b s
  refine ⟨fun t ht => ?_, fun r hr => ?_, fun h => ?_⟩
  · obtain ⟨hmsr, hmfr⟩ := runEvents_keeps_msr_mfr ht
    exact ⟨hmsr, hmfr, by rw [hrun, ht]; rfl⟩
  · rw [hrun, hr]
    rfl
  · rw [hanswer]
    rfl

end Sys2Proof.Machine
end

section
/-!
PROOFS. The memory unit (20_memory.md): requests and the busy rule, the memory phase alone and as the last phase of a tick,
and the engineering interface.
-/

namespace Sys2Proof.Machine

open Sys2Proof

/-! ## A cell after a write -/

theorem Memory.read_write_same {m : Memory} (a : Nat) (v : Word) (h : m.wf = true) : (m.write a v).read a = v := by
  rw [Memory.read_write m a a v h, if_pos rfl]

theorem Memory.read_write_of_ne {m : Memory} {a b : Nat} (v : Word) (h : m.wf = true) (hne : b ≠ a) :
    (m.write a v).read b = m.read b := by
  rw [Memory.read_write m a b v h, if_neg hne]

/-! ## Requests -/

theorem busy_eq_true_iff (m : MemState) : m.busy = true ↔ m = .fetch ∨ m = .store := by
  cases m <;> decide

theorem busy_eq_false_iff (m : MemState) : m.busy = false ↔ m = .none ∨ m = .preFetch ∨ m = .preStore := by
  cases m <;> decide

theorem setMBR_of_busy {s : State} (p : Word) (h : s.mstate.busy = true) : s.setMBR p = .refused := by
  rw [State.setMBR, if_pos h]

/-- Settles O14: the two branches of the busy test. -/
theorem writeRequestsObeyTheBusyRule : Obligations.WriteRequestsObeyTheBusyRule := by
  unfold Obligations.WriteRequestsObeyTheBusyRule
  intro s p
  exact ⟨fun h => setMBR_of_busy p ((busy_eq_true_iff _).2 h), fun h => setMBR_of_idle p ((busy_eq_false_iff _).2 h)⟩

/-! ## The memory phase, by the unit's state -/

theorem memoryPhase_of_preFetch {s : State} (hm : s.mstate = .preFetch) (ha : s.mar.toNat < 2048) :
    memoryPhase s = .done { s with mbr := s.mem.read s.mar.toNat, mstate := .fetch } := by
  rw [memoryPhase, hm]
  exact if_pos ((inRange_iff _).2 ha)

theorem memoryPhase_of_preStore {s : State} (hm : s.mstate = .preStore) (ha : s.mar.toNat < 2048) :
    memoryPhase s = .done { s with mem := s.mem.write s.mar.toNat s.mbr, mstate := .store } := by
  rw [memoryPhase, hm]
  exact if_pos ((inRange_iff _).2 ha)

theorem memoryPhase_of_outOfRange {s : State} (hm : s.mstate = .preFetch ∨ s.mstate = .preStore)
    (ha : 2048 ≤ s.mar.toNat) : memoryPhase s = .raise (.addressOutOfRange s.mar.toNat) := by
  have hout : ¬inRange s.mar.toNat = true := fun h => Nat.not_lt.2 ha ((inRange_iff _).1 h)
  obtain hm | hm := hm <;> rw [memoryPhase, hm] <;> exact if_neg hout

theorem memoryPhase_of_busy {s : State} (h : s.mstate.busy = true) : memoryPhase s = .done { s with mstate := .none } := by
  obtain hm | hm := (busy_eq_true_iff _).1 h <;> rw [memoryPhase, hm]

theorem memoryPhase_of_none {s : State} (hm : s.mstate = .none) : memoryPhase s = .done s := by
  rw [memoryPhase, hm]

/-! ## Pending accesses in a tick -/

theorem takeFault_stopped (s : State) (k : FaultKind) (ph : TickPhase) : (s.takeFault k ph).stopped = true :=
  Bool.or_true _

/-- Settles O15: the tick is what its memory phase does after the two phases before it; a fault stops the next tick. -/
theorem pendingAccessesArePerformedOrFault : Obligations.PendingAccessesArePerformedOrFault := by
  unfold Obligations.PendingAccessesArePerformedOrFault
  intro s s1 s2 hrun hcu halu
  refine ⟨fun hm ha => ?read, fun hm ha hwf => ?write, fun hm ha => ?fault⟩
  case read => exact tickWith_done hrun hcu halu (memoryPhase_of_preFetch hm ha)
  case write =>
    refine ⟨_, tickWith_done hrun hcu halu (memoryPhase_of_preStore hm ha), rfl, ?_, fun a hne => ?_⟩
    · exact Memory.read_write_same _ _ hwf
    · exact Memory.read_write_of_ne _ hwf hne
  case fault =>
    exact ⟨_, tickWith_memory_raise hrun hcu halu (memoryPhase_of_outOfRange hm ha), rfl, rfl,
      tickWith_stopped (takeFault_stopped _ _ _)⟩

/-! ## Requests served in the next memory phase -/

/-- An address of the store fits MAR. -/
theorem toNat_ofNat_of_inStore {a : Nat} (ha : a < 2048) : (BitVec.ofNat 13 a).toNat = a :=
  (BitVec.toNat_ofNat a 13).trans (Nat.mod_eq_of_lt (by omega))

theorem memoryPhase_of_readAt {s : State} {a : Nat} (hm : s.mstate = .preFetch) (hmar : s.mar = BitVec.ofNat 13 a)
    (ha : a < 2048) : memoryPhase s = .done { s with mbr := s.mem.read a, mstate := .fetch } := by
  have hto : s.mar.toNat = a := by rw [hmar, toNat_ofNat_of_inStore ha]
  rw [memoryPhase_of_preFetch hm (by omega), hto]

theorem memoryPhase_of_writeAt {s : State} {a : Nat} (hm : s.mstate = .preStore) (hmar : s.mar = BitVec.ofNat 13 a)
    (ha : a < 2048) : memoryPhase s = .done { s with mem := s.mem.write a s.mbr, mstate := .store } := by
  have hto : s.mar.toNat = a := by rw [hmar, toNat_ofNat_of_inStore ha]
  rw [memoryPhase_of_preStore hm (by omega), hto]

/-- Settles O16: the last request decides the access (R38), and the memory phase after it serves that access. -/
theorem requestsAreServedInOneTickAndBusyForOneMore : Obligations.RequestsAreServedInOneTickAndBusyForOneMore := by
  unfold Obligations.RequestsAreServedInOneTickAndBusyForOneMore
  intro s a p
  refine ⟨fun hb => ⟨setMAR_of_busy s a hb, memoryPhase_of_busy hb⟩, memoryPhase_of_none,
    fun hb ha => setMAR_too_wide hb ha, fun hb ha => ?_⟩
  have hfits : a < 8192 := by omega
  refine ⟨?read, ?store, ?reversed⟩
  case read =>
    exact ⟨_, _, setMAR_of_nat hb hfits, memoryPhase_of_readAt rfl rfl ha, rfl, memoryPhase_of_busy rfl⟩
  case store =>
    exact ⟨_, _, _, setMAR_of_nat hb hfits, setMBR_of_idle p rfl, rfl, memoryPhase_of_writeAt rfl rfl ha, rfl,
      memoryPhase_of_busy rfl⟩
  case reversed =>
    exact ⟨_, _, _, setMBR_of_idle p hb, setMAR_of_nat rfl hfits, rfl, memoryPhase_of_readAt rfl rfl ha, rfl, rfl⟩

/-! ## The engineering interface -/

theorem engineerSet_eq_ite (s : State) (a : Nat) (n : Int) :
    s.engineerSet a n =
      if a < 2048 then
        if -524287 ≤ n ∧ n ≤ 1048575 then (.success, { s with mem := s.mem.write a (BitVec.ofInt 20 n) })
        else (.constructionError 20 n, s)
      else (.addressError a, s) := by
  simp only [State.engineerSet, inRange_iff, hostConstruct_word]

theorem engineerFetch_eq_ite (s : State) (a : Nat) :
    s.engineerFetch a = if a < 2048 then (.value (s.mem.read a).toNat, s) else (.addressError a, s) := by
  simp only [State.engineerFetch, inRange_iff]

theorem engineerSet_of_outOfRange (s : State) {a : Nat} (n : Int) (ha : 2048 ≤ a) :
    s.engineerSet a n = (.addressError a, s) := by
  rw [engineerSet_eq_ite, if_neg (by omega)]

theorem engineerSet_of_legal (s : State) {a : Nat} {n : Int} (ha : a < 2048) (hn : -524287 ≤ n ∧ n ≤ 1048575) :
    s.engineerSet a n = (.success, { s with mem := s.mem.write a (BitVec.ofInt 20 n) }) := by
  rw [engineerSet_eq_ite, if_pos ha, if_pos hn]

theorem engineerSet_of_illegal (s : State) {a : Nat} {n : Int} (ha : a < 2048) (hn : ¬(-524287 ≤ n ∧ n ≤ 1048575)) :
    s.engineerSet a n = (.constructionError 20 n, s) := by
  rw [engineerSet_eq_ite, if_pos ha, if_neg hn]

/-- Settles O59: the address is tested before the value, and a legal write is one write of the store. -/
theorem engineeringInterfaceTouchesOneCell : Obligations.EngineeringInterfaceTouchesOneCell := by
  unfold Obligations.EngineeringInterfaceTouchesOneCell
  intro s a n hwf
  refine ⟨fun ha hl hh => ?legal, fun ha hn => engineerSet_of_illegal s ha hn,
    fun ha _ _ => engineerSet_of_outOfRange s n ha, fun ha _ => .inl (engineerSet_of_outOfRange s n ha),
    engineerFetch_eq_ite s a⟩
  case legal =>
    refine ⟨_, engineerSet_of_legal s ha ⟨hl, hh⟩, rfl, ?_, fun b hne => ?_⟩
    · exact Memory.read_write_same _ _ hwf
    · exact Memory.read_write_of_ne _ hwf hne

end Sys2Proof.Machine
end

section
/-!
PROOFS. The decoder and the encoder (30_encoding.md R55 to R57, R66, R67): the fields of a word as numbers, packing and
extracting undo each other, and which opcodes name an instruction.
-/

namespace Sys2Proof

/-! ## The fields of a word as numbers (R57) -/

theorem opcodeField_toNat (w : Word) : (opcodeField w).toNat = w.toNat / 2 ^ 14 := by
  rw [opcodeField, BitVec.extractLsb'_toNat, Nat.shiftRight_eq_div_pow]
  have hw := w.isLt
  omega

theorem fieldsOf_rfi (w : Word) : (fieldsOf w).rfi.val = w.toNat / 2 ^ 12 % 4 := by
  rw [← Nat.shiftRight_eq_div_pow]
  exact BitVec.extractLsb'_toNat 12 2 w

theorem fieldsOf_xfi (w : Word) : (fieldsOf w).xfi.val = w.toNat / 2 ^ 10 % 4 := by
  rw [← Nat.shiftRight_eq_div_pow]
  exact BitVec.extractLsb'_toNat 10 2 w

/-- A bit of a word as the number that its field holds. -/
theorem getLsbD_toNat (w : Word) (i : Nat) : (w.getLsbD i).toNat = w.toNat / 2 ^ i % 2 := by
  rw [← BitVec.testBit_toNat, Nat.toNat_testBit]

theorem fieldsOf_ibit (w : Word) : (fieldsOf w).ibit.toNat = w.toNat / 2 ^ 9 % 2 := getLsbD_toNat w 9

theorem fieldsOf_tbit (w : Word) : (fieldsOf w).tbit.toNat = w.toNat / 2 ^ 8 % 2 := getLsbD_toNat w 8

theorem fieldsOf_addr (w : Word) : (fieldsOf w).addr.toNat = w.toNat % 2 ^ 8 := BitVec.extractLsb'_toNat 0 8 w

/-- The converse of R57: a word is the sum of its fields, each at its place. -/
theorem toNat_eq_sum_of_fields (w : Word) :
    w.toNat = (opcodeField w).toNat * 2 ^ 14 + (fieldsOf w).rfi.val * 2 ^ 12 + (fieldsOf w).xfi.val * 2 ^ 10 +
      (fieldsOf w).ibit.toNat * 2 ^ 9 + (fieldsOf w).tbit.toNat * 2 ^ 8 + (fieldsOf w).addr.toNat := by
  rw [opcodeField_toNat, fieldsOf_rfi, fieldsOf_xfi, fieldsOf_ibit, fieldsOf_tbit, fieldsOf_addr]
  omega

/-- Settles O2: one lemma per field, and their sum. -/
theorem fieldExtractionIsByDivision : Obligations.FieldExtractionIsByDivision := by
  unfold Obligations.FieldExtractionIsByDivision
  exact fun w => ⟨opcodeField_toNat w, fieldsOf_rfi w, fieldsOf_xfi w, fieldsOf_ibit w, fieldsOf_tbit w, fieldsOf_addr w,
    toNat_eq_sum_of_fields w⟩

/-! ## Packing and extracting -/

/-- Packing the fields of a word gives the word back. -/
theorem packWord_opcodeField_fieldsOf (w : Word) : packWord (opcodeField w) (fieldsOf w) = w := by
  refine BitVec.eq_of_toNat_eq ?_
  rw [packWord_toNat, ← toNat_eq_sum_of_fields]

@[simp] theorem opcodeField_packWord (op : BitVec 6) (f : Fields) : opcodeField (packWord op f) = op := by
  refine BitVec.eq_of_toNat_eq ?_
  rw [opcodeField_toNat, packWord_toNat]
  have hr := f.rfi.isLt
  have hx := f.xfi.isLt
  have hi := f.ibit.toNat_lt
  have ht := f.tbit.toNat_lt
  have ha := f.addr.isLt
  omega

/-- Fields are determined by the numbers in them. -/
theorem Fields.raw_injective {f g : Fields} (h : f.raw = g.raw) : f = g := by
  have toNat_injective : ∀ a b : Bool, a.toNat = b.toNat → a = b := by decide
  simp only [Fields.raw, RawOperands.mk.injEq] at h
  obtain ⟨hrfi, hxfi, hibit, htbit, haddr⟩ := h
  cases f
  cases g
  rw [Fields.mk.injEq]
  exact ⟨Fin.ext hrfi, Fin.ext hxfi, toNat_injective _ _ hibit, toNat_injective _ _ htbit,
    BitVec.eq_of_toNat_eq haddr⟩

@[simp] theorem fieldsOf_packWord (op : BitVec 6) (f : Fields) : fieldsOf (packWord op f) = f := by
  apply Fields.raw_injective
  have hr := f.rfi.isLt
  have hx := f.xfi.isLt
  have hi := f.ibit.toNat_lt
  have ht := f.tbit.toNat_lt
  have ha := f.addr.isLt
  simp only [Fields.raw, RawOperands.mk.injEq, fieldsOf_rfi, fieldsOf_xfi, fieldsOf_ibit, fieldsOf_tbit, fieldsOf_addr,
    packWord_toNat]
  omega

/-! ## An instruction is its mnemonic and its fields -/

@[simp] theorem make_mnemonic_fields (i : Instr) : Instr.make i.mnemonic i.fields = i := by cases i <;> rfl

@[simp] theorem mnemonic_make (m : Mnemonic) (f : Fields) : (Instr.make m f).mnemonic = m := by cases m <;> rfl

@[simp] theorem fields_make (m : Mnemonic) (f : Fields) : (Instr.make m f).fields = f := by cases m <;> rfl

/-! ## The opcode table (R66, R67) -/

/-- The table gives no opcode twice: looking an instruction's opcode up finds that instruction. -/
theorem mnemonicOf_opcodeMap (m : Mnemonic) : mnemonicOf Config.opcodeMap (Config.opcodeMap m) = some m := by
  cases m <;> decide

theorem opcodeMap_of_mnemonicOf {op : BitVec 6} {m : Mnemonic} (h : mnemonicOf Config.opcodeMap op = some m) :
    Config.opcodeMap m = op := by
  have hfound := List.find?_some h
  exact eq_of_beq hfound

theorem mnemonicOf_eq_some_iff (op : BitVec 6) (m : Mnemonic) :
    mnemonicOf Config.opcodeMap op = some m ↔ Config.opcodeMap m = op :=
  ⟨opcodeMap_of_mnemonicOf, fun h => h ▸ mnemonicOf_opcodeMap m⟩

/-- The opcodes that R67 lists are those without a row in the table. -/
theorem mnemonicOf_eq_none_iff (op : BitVec 6) :
    mnemonicOf Config.opcodeMap op = none ↔
      op.toNat ∈ [16, 17, 22, 23, 24] ∨ (27 ≤ op.toNat ∧ op.toNat ≤ 32) ∨ 35 ≤ op.toNat := by
  have h : ∀ n : Fin 64, mnemonicOf Config.opcodeMap (BitVec.ofFin n) = none ↔
      n.val ∈ [16, 17, 22, 23, 24] ∨ (27 ≤ n.val ∧ n.val ≤ 32) ∨ 35 ≤ n.val := by decide
  exact h op.toFin

/-! ## Decoding and encoding -/

/-- A word decodes to the instruction that its opcode and its fields name. -/
theorem decode_eq_ok_iff (w : Word) (i : Instr) :
    decode w = .ok i ↔ Config.opcodeMap i.mnemonic = opcodeField w ∧ i.fields = fieldsOf w := by
  rw [← mnemonicOf_eq_some_iff, decode, decodeWith]
  cases hm : mnemonicOf Config.opcodeMap (opcodeField w) with
  | none => simp
  | some m =>
    constructor
    · intro h
      cases h
      simp
    · rintro ⟨hop, hf⟩
      cases hop
      rw [← hf]
      simp

theorem decode_eq_error_iff (w : Word) (e : DecodeError) :
    decode w = .error e ↔ mnemonicOf Config.opcodeMap (opcodeField w) = none ∧ e = .unhandledOpcode (opcodeField w) := by
  rw [decode, decodeWith]
  cases mnemonicOf Config.opcodeMap (opcodeField w) with
  | none => simp [eq_comm]
  | some m => simp

theorem decode_encode (i : Instr) : decode (encode i) = .ok i := by
  rw [decode_eq_ok_iff, encode, encodeWith, opcodeField_packWord, fieldsOf_packWord]
  exact ⟨rfl, rfl⟩

theorem encode_of_decode {w : Word} {i : Instr} (h : decode w = .ok i) : encode i = w := by
  obtain ⟨hop, hf⟩ := (decode_eq_ok_iff w i).1 h
  rw [encode, encodeWith, hop, hf, packWord_opcodeField_fieldsOf]

/-- Settles O1: packing and extracting undo each other, and no opcode stands twice in the table. -/
theorem decodeAndEncodeAgree : Obligations.DecodeAndEncodeAgree := by
  unfold Obligations.DecodeAndEncodeAgree
  exact ⟨fun i _ => decode_encode i, fun _ _ => encode_of_decode⟩

/-- Settles O3: each word by its opcode and fields. -/
theorem specWordsDecodeToTheirInstructions : Obligations.SpecWordsDecodeToTheirInstructions := by
  unfold Obligations.SpecWordsDecodeToTheirInstructions
  simp only [decode_eq_ok_iff, decode_eq_error_iff]
  decide

end Sys2Proof
end

section
/-!
PROOFS. Words that are no instruction (30_encoding.md R67): they are fetched and decoded like any other. The faults of
DECODE (40_cycle.md R79; 20_memory.md R43) and the fault of the first execute microstep are said for any opcode and any
microsequence.
-/

namespace Sys2Proof.Machine

open Sys2Proof

/-! ## Ticks that take a fault end the instruction -/

theorem toEnd_tick_raises {cu : State → PhaseResult} {n : Nat} {s : State} {k : FaultKind} (hs : s.stopped = false)
    (h : cu s = .raise k) : toEnd (tickWith cu) (n + 1) s = .next (s.takeFault k .controlUnit) :=
  toEnd_ends (tickWith_raise hs h) (by rw [instructionEnded, takeFault_stopped, Bool.true_or])

theorem toEnd_tick_memory_raises {cu : State → PhaseResult} {n : Nat} {s s1 s2 : State} {k : FaultKind}
    (hs : s.stopped = false) (h1 : cu s = .done s1) (h2 : aluPhase s1 = .done s2) (h3 : memoryPhase s2 = .raise k) :
    toEnd (tickWith cu) (n + 1) s = .next (s2.takeFault k .memory) :=
  toEnd_ends (tickWith_memory_raise hs h1 h2 h3) (by rw [instructionEnded, takeFault_stopped, Bool.true_or])

theorem stopped_eq_false_iff (s : State) : s.stopped = false ↔ s.halted = false ∧ s.fault = none := by
  simp [State.stopped]

theorem aluPhase_of_none {s : State} (h : s.astate = .none) : aluPhase s = .done s := by
  rw [aluPhase, h]

/-! ## A step from an instruction boundary -/

/-- The fetch of a step leaves `State.afterFetch`, and the rest of the step runs the word it read. -/
theorem step_of_ready {s : State} (h : s.Ready) (hp : s.pc.toNat < 2048) : step s = runCurrent s.afterFetch := by
  obtain ⟨hh, hf, -⟩ := afterFetch_fetched h
  rw [step, fetch_leaves_afterFetch s h hp]
  exact if_neg (by simp [State.stopped, hh, hf])

theorem currentWord_afterFetch {s : State} (h : s.Ready) : s.afterFetch.currentWord = s.mem.read s.pc.toNat := by
  obtain ⟨-, -, -, -, hdec, -⟩ := afterFetch_fetched h
  rw [State.currentWord, hdec]
  rfl

theorem step_of_unhandled {s : State} {w : Word} {op : BitVec 6} (h : s.Ready) (hp : s.pc.toNat < 2048)
    (hw : s.mem.read s.pc.toNat = w) (hdec : decode w = .error (.unhandledOpcode op)) :
    step s = runInstruction op (fieldsOf w) (unhandledMicrostep op) s.afterFetch := by
  have hword := (currentWord_afterFetch h).trans hw
  rw [step_of_ready h hp, runCurrent, hword, hdec]
  simp only [runUnhandled, hword]

/-! ## The faults of decode and of the first execute microstep -/

section

variable {op : BitVec 6} {f : Fields} {exe : State → PhaseResult} {s : State}

/-- Whatever the opcode, a fault of E0 is taken in the state that DECODE leaves. -/
theorem runInstruction_raises_at_execute {k : FaultKind} (h : s.Fetched) (hair : op ≠ Config.opcodeMap .AIR)
    (hsir : op ≠ Config.opcodeMap .SIR) (hr : s.DecodeReadable f)
    (hexe : exe
      { s.afterDecode f with
        top := .execute, micro := 0, dec := some { opcode := op, fields := f, mode := eaMode f },
        ea := some (s.effectiveAddress f) } = .raise k) :
    runInstruction op f exe s = .next (State.takeFault
      { s.afterDecode f with
        top := .execute, micro := 0, dec := some { opcode := op, fields := f, mode := eaMode f },
        ea := some (s.effectiveAddress f) } k .controlUnit) := by
  obtain ⟨ticks, hticks, hdecode⟩ := decode_reaches_execute op f exe s h hair hsir hr
  obtain ⟨hh, hf, -⟩ := h
  have hsplit : maxTicks = (11 - ticks + 1) + ticks := by
    rw [maxTicks]
    omega
  rw [runInstruction, hsplit, hdecode]
  exact toEnd_tick_raises (by simp [State.stopped, hh, hf]) hexe

theorem eaMode_of_ibit (hi : f.ibit = true) : eaMode f = .indexed ∨ eaMode f = .indexedOffset := by
  rw [eaMode, if_pos hi]
  split
  · exact .inl rfl
  · exact .inr rfl

theorem baseAddress_of_xfi_zero (hx : f.xfi = 0) : s.baseAddress f = f.addr.toNat := by
  rw [State.baseAddress, State.indexValue, hx, IndexRegs.get_zero, Nat.zero_add]

/-- DECODE µ0 of a mode with indirection latches the fields and goes on to µ1 (R78). -/
theorem decodeMicrostep_start_of_ibit (hair : op ≠ Config.opcodeMap .AIR) (hsir : op ≠ Config.opcodeMap .SIR)
    (hi : f.ibit = true) (hm : s.micro = 0) :
    decodeMicrostep op f s =
      .done { s with dec := some { opcode := op, fields := f, mode := eaMode f }, micro := 1 } := by
  rw [decodeMicrostep, hm]
  simp only [decodeStart, if_neg (not_or.2 ⟨hair, hsir⟩)]
  obtain hmode | hmode := eaMode_of_ibit hi <;> simp only [hmode, State.nextMicro, hm]

/-- DECODE µ1 of a mode with indirection requests the base address (R79). -/
theorem decodeMicrostep_request_of_ibit (hi : f.ibit = true) (hm : s.micro = 1)
    (hd : s.dec = some { opcode := op, fields := f, mode := eaMode f }) :
    decodeMicrostep op f s = orStall s (s.setMAR (s.baseAddress f)) fun s' => .done s'.nextMicro := by
  rw [decodeMicrostep, hm]
  by_cases hx : f.xfi = 0
  · have hmode : eaMode f = .indexed := by rw [eaMode, if_pos hi, if_pos hx]
    simp only [hd, hmode, baseAddress_of_xfi_zero hx]
  · have hmode : eaMode f = .indexedOffset := by rw [eaMode, if_pos hi, if_neg hx]
    simp only [hd, hmode]

theorem instructionControlUnit_of_decode (ht : s.top = .decode) :
    instructionControlUnit op f exe s = decodeMicrostep op f s := by
  rw [instructionControlUnit, ht]

/-- The first tick of DECODE in a mode with indirection. -/
theorem toEnd_decode_start_of_ibit {n : Nat} (h : s.Fetched) (hair : op ≠ Config.opcodeMap .AIR)
    (hsir : op ≠ Config.opcodeMap .SIR) (hi : f.ibit = true) :
    toEnd (tickWith (instructionControlUnit op f exe)) (n + 1) s =
      toEnd (tickWith (instructionControlUnit op f exe)) n
        { s with dec := some { opcode := op, fields := f, mode := eaMode f }, micro := 1 } := by
  obtain ⟨hh, hf, ht, hm, -, -, -, hms, ha, -⟩ := h
  have hcu := (instructionControlUnit_of_decode (exe := exe) ht).trans (decodeMicrostep_start_of_ibit hair hsir hi hm)
  exact toEnd_tick_goes_on _ ((stopped_eq_false_iff s).2 ⟨hh, hf⟩) hcu (aluPhase_of_none ha) (memoryPhase_of_none hms)
    (by simp [instructionEnded, State.stopped, hh, hf, ht])

/-- A decode read above 8191 fails its construction in DECODE µ1. -/
theorem runInstruction_decode_read_too_wide (h : s.Fetched) (hair : op ≠ Config.opcodeMap .AIR)
    (hsir : op ≠ Config.opcodeMap .SIR) (hi : f.ibit = true) (hb : 8191 < s.baseAddress f) :
    runInstruction op f exe s = .next (State.takeFault
      { s with dec := some { opcode := op, fields := f, mode := eaMode f }, micro := 1 }
      (.construction 13 (s.baseAddress f)) .controlUnit) := by
  rw [runInstruction, maxTicks, toEnd_decode_start_of_ibit h hair hsir hi]
  obtain ⟨hh, hf, ht, -, -, -, -, hms, -⟩ := h
  refine toEnd_tick_raises ((stopped_eq_false_iff _).2 ⟨hh, hf⟩) ?_
  refine (instructionControlUnit_of_decode (by exact ht)).trans ?_
  rw [decodeMicrostep_request_of_ibit hi rfl rfl]
  exact congrArg (orStall _ · _) (setMAR_too_wide (by rw [hms]; rfl) hb)

/-- A decode read at an address of MAR that names no cell faults in the memory phase of DECODE µ1. -/
theorem runInstruction_decode_read_out_of_range (h : s.Fetched) (hair : op ≠ Config.opcodeMap .AIR)
    (hsir : op ≠ Config.opcodeMap .SIR) (hi : f.ibit = true) (hlow : 2048 ≤ s.baseAddress f)
    (hhigh : s.baseAddress f ≤ 8191) :
    runInstruction op f exe s = .next (State.takeFault
      { s with
        dec := some { opcode := op, fields := f, mode := eaMode f }, micro := 2,
        mar := BitVec.ofNat 13 (s.baseAddress f), mstate := .preFetch }
      (.addressOutOfRange (s.baseAddress f)) .memory) := by
  have hmar : (BitVec.ofNat 13 (s.baseAddress f)).toNat = s.baseAddress f :=
    (BitVec.toNat_ofNat _ 13).trans (Nat.mod_eq_of_lt (by omega))
  rw [runInstruction, maxTicks, toEnd_decode_start_of_ibit h hair hsir hi]
  obtain ⟨hh, hf, ht, -, -, -, -, hms, ha, -⟩ := h
  refine toEnd_tick_memory_raises ((stopped_eq_false_iff _).2 ⟨hh, hf⟩) ?request (aluPhase_of_none ha) ?access
  case request =>
    refine (instructionControlUnit_of_decode (by exact ht)).trans ?_
    rw [decodeMicrostep_request_of_ibit hi rfl rfl]
    exact congrArg (orStall _ · _) (setMAR_of_nat (by rw [hms]; rfl) (Nat.lt_succ_of_le hhigh))
  case access =>
    rw [memoryPhase_of_outOfRange (.inl rfl) (hlow.trans_eq hmar.symm), hmar]

end

/-- The opcodes of AIR and SIR, which skip the effective address, are in the table. -/
theorem opcode_ne_of_unhandled {w : Word} {op : BitVec 6} (h : decode w = .error (.unhandledOpcode op)) (m : Mnemonic) :
    op ≠ Config.opcodeMap m := by
  obtain ⟨hnone, hop⟩ := (decode_eq_error_iff w _).1 h
  rintro rfl
  rw [← DecodeError.unhandledOpcode.inj hop, mnemonicOf_opcodeMap] at hnone
  cases hnone

/-- Settles O42: the table's gaps by `mnemonicOf_eq_none_iff`, the step by the two faults of DECODE and, past them, the
fault of E0. -/
theorem unhandledOpcodesAreDecodedThenFault : Obligations.UnhandledOpcodesAreDecodedThenFault := by
  unfold Obligations.UnhandledOpcodesAreDecodedThenFault
  refine ⟨fun w => ⟨?opcodes, fun e he => ((decode_eq_error_iff w e).1 he).2⟩, fun s w op hready hp hw hdec => ?step⟩
  case opcodes =>
    rw [decode_eq_error_iff, ← mnemonicOf_eq_none_iff]
    exact and_iff_left rfl
  case step =>
    have hair := opcode_ne_of_unhandled hdec .AIR
    have hsir := opcode_ne_of_unhandled hdec .SIR
    have hfetched := afterFetch_fetched hready
    rw [step_of_unhandled hready hp hw hdec]
    refine ⟨fun hr => runInstruction_raises_at_execute hfetched hair hsir hr rfl, ?_⟩
    rintro hi b rfl
    exact ⟨fun hlow hhigh => runInstruction_decode_read_out_of_range hfetched hair hsir hi hlow hhigh,
      fun hb => runInstruction_decode_read_too_wide hfetched hair hsir hi hb⟩

end Sys2Proof.Machine
end

section
/-!
PROOFS. The trace bit has no effect (30_encoding.md R64): running an instruction and then forgetting the trace bit is the
same as forgetting it first, in the instruction and in the state, and then running.
-/

namespace Sys2Proof.Machine

open Sys2Proof

/-! ## A state map passed through phases and outcomes -/

/-- The answer of a phase with a map applied to its state. -/
def PhaseResult.map (g : State → State) : PhaseResult → PhaseResult
  | .done s => .done (g s)
  | .raise k => .raise k
  | .noRule => .noRule

/-- The outcome of a tick or of a run with a map applied to its state. -/
def mapOutcome (g : State → State) : Host.Outcome State Fault Refusal → Host.Outcome State Fault Refusal
  | .next s => .next (g s)
  | .fault r => .fault r
  | .refused r => .refused r

theorem mapOutcome_eq_next {g : State → State} {o : Host.Outcome State Fault Refusal} {t : State}
    (h : mapOutcome g o = .next t) : ∃ u, o = .next u ∧ g u = t := by
  cases o with
  | next u => exact ⟨u, rfl, Host.Outcome.next.inj h⟩
  | fault r => cases h
  | refused r => cases h

section

variable (g : State → State)

@[simp] theorem map_done (s : State) : (PhaseResult.done s).map g = .done (g s) := rfl

@[simp] theorem map_raise (k : FaultKind) : (PhaseResult.raise k).map g = .raise k := rfl

@[simp] theorem map_noRule : PhaseResult.noRule.map g = .noRule := rfl

@[simp] theorem map_orRaise {α : Type} (c : Except FaultKind α) (k : α → PhaseResult) :
    (orRaise c k).map g = orRaise c fun v => (k v).map g := by
  cases c <;> rfl

@[simp] theorem map_withEa (s : State) (k : Nat → PhaseResult) :
    (s.withEa k).map g = s.withEa fun ea => (k ea).map g := by
  unfold State.withEa
  split <;> rfl

@[simp] theorem map_withResult (s : State) (k : Word → PhaseResult) :
    (s.withResult k).map g = s.withResult fun v => (k v).map g := by
  unfold State.withResult
  split <;> rfl

@[simp] theorem map_ite (c : Prop) [Decidable c] (p q : PhaseResult) :
    (if c then p else q).map g = if c then p.map g else q.map g := by
  split <;> rfl

end

/-! ## Control units that commute with a state map -/

/-- What a state map has to do for whole ticks to commute with it: leave the run's end and the place of the control unit
alone, and commute with the units' phases and with taking a fault. -/
structure CommutesWithTheTick (g : State → State) : Prop where
  stopped : ∀ s, (g s).stopped = s.stopped
  top : ∀ s, (g s).top = s.top
  micro : ∀ s, (g s).micro = s.micro
  takeFault : ∀ s k ph, (g s).takeFault k ph = g (s.takeFault k ph)
  alu : ∀ s, aluPhase (g s) = (aluPhase s).map g
  memory : ∀ s, memoryPhase (g s) = (memoryPhase s).map g

section

variable {g : State → State}

/-- A phase passes the map on to the outcome of the tick when the phases after it do. -/
theorem andThen_map (hg : CommutesWithTheTick g) (r : PhaseResult) (s : State) (ph : TickPhase)
    {k : State → Host.Outcome State Fault Refusal} (hk : ∀ t, k (g t) = mapOutcome g (k t)) :
    (r.map g).andThen (g s) ph k = mapOutcome g (r.andThen s ph k) := by
  cases r with
  | done t => exact hk t
  | raise e => exact congrArg Host.Outcome.next (hg.takeFault s e ph)
  | noRule => simp only [map_noRule, PhaseResult.andThen, mapOutcome, hg.top, hg.micro]

/-- When two control units commute with the map, so do the ticks with them. -/
theorem tickWith_map (hg : CommutesWithTheTick g) {cu cu' : State → PhaseResult}
    (hcu : ∀ s, cu' (g s) = (cu s).map g) (s : State) : tickWith cu' (g s) = mapOutcome g (tickWith cu s) := by
  rw [tickWith, tickWith, hg.stopped, hcu]
  split
  · rfl
  · refine andThen_map hg _ s _ fun s1 => ?_
    rw [hg.alu]
    refine andThen_map hg _ s1 _ fun s2 => ?_
    rw [hg.memory]
    exact andThen_map hg _ s2 _ fun s3 => rfl

theorem instructionEnded_map (hg : CommutesWithTheTick g) (s t : State) :
    instructionEnded (g s) (g t) = instructionEnded s t := by
  simp only [instructionEnded, hg.stopped, hg.top]

theorem toEnd_map (hg : CommutesWithTheTick g) {cu cu' : State → PhaseResult} (hcu : ∀ s, cu' (g s) = (cu s).map g)
    (n : Nat) (s : State) : toEnd (tickWith cu') n (g s) = mapOutcome g (toEnd (tickWith cu) n s) := by
  induction n generalizing s with
  | zero => rfl
  | succ n ih =>
    rw [toEnd, toEnd, tickWith_map hg hcu]
    cases tickWith cu s with
    | next t =>
      simp only [mapOutcome, instructionEnded_map hg, ih]
      split <;> rfl
    | fault r => rfl
    | refused r => rfl

end

/-! ## Forgetting the trace bit in a state -/

section

variable (s : State)

@[simp] theorem State.withoutTrace_index : s.withoutTrace.index = s.index := rfl

@[simp] theorem State.withoutTrace_mar : s.withoutTrace.mar = s.mar := rfl

@[simp] theorem State.withoutTrace_top : s.withoutTrace.top = s.top := rfl

@[simp] theorem State.withoutTrace_micro : s.withoutTrace.micro = s.micro := rfl

@[simp] theorem State.withoutTrace_dec : s.withoutTrace.dec = s.dec.map Decoded.withoutTrace := rfl

@[simp] theorem State.withoutTrace_mstate : s.withoutTrace.mstate = s.mstate := rfl

@[simp] theorem State.withoutTrace_astate : s.withoutTrace.astate = s.astate := rfl

@[simp] theorem State.withoutTrace_op1 : s.withoutTrace.op1 = s.op1 := rfl

@[simp] theorem State.withoutTrace_op2 : s.withoutTrace.op2 = s.op2 := rfl

@[simp] theorem State.withoutTrace_ctrl : s.withoutTrace.ctrl = s.ctrl := rfl

@[simp] theorem State.withoutTrace_stopped : s.withoutTrace.stopped = s.stopped := by
  simp [State.stopped, State.withoutTrace]

theorem aluPhase_withoutTrace : aluPhase s.withoutTrace = (aluPhase s).map State.withoutTrace := by
  simp only [aluPhase, State.withoutTrace_astate, State.withoutTrace_op1, State.withoutTrace_op2,
    State.withoutTrace_ctrl]
  repeat' split
  all_goals simp <;> rfl

theorem memoryPhase_withoutTrace : memoryPhase s.withoutTrace = (memoryPhase s).map State.withoutTrace := by
  simp only [memoryPhase, State.withoutTrace_mstate, State.withoutTrace_mar]
  split
  case h_1 | h_2 =>
    rw [map_ite]
    rfl
  all_goals rfl

theorem withoutTrace_commutes : CommutesWithTheTick State.withoutTrace where
  stopped := State.withoutTrace_stopped
  top _ := rfl
  micro _ := rfl
  takeFault _ _ _ := rfl
  alu := aluPhase_withoutTrace
  memory := memoryPhase_withoutTrace

/-! ## The microsteps -/

@[simp] theorem map_complete : s.complete.map State.withoutTrace = s.withoutTrace.complete := by
  cases h : s.nextPC with
  | some p =>
    rw [complete_of_jump h, complete_of_jump (s := s.withoutTrace) h]
    rfl
  | none =>
    rw [complete_of_no_target h, complete_of_no_target (s := s.withoutTrace) h, map_orRaise]
    rfl

end

theorem fetchMicrostep_withoutTrace (s : State) :
    fetchMicrostep s.withoutTrace = (fetchMicrostep s).map State.withoutTrace := by
  simp only [fetchMicrostep, State.withoutTrace_micro]
  split
  · simp only [orStall_setMAR, map_ite, map_orRaise, map_done]
    rfl
  · rfl
  · rfl

/-- Only the latch that DECODE µ0 writes depends on the trace bit. -/
theorem decodeStart_withoutTrace (op : BitVec 6) (f : Fields) (s : State) :
    decodeStart op { f with tbit := false } s.withoutTrace = (decodeStart op f s).withoutTrace := by
  have hmode : eaMode { f with tbit := false } = eaMode f := rfl
  rw [decodeStart, decodeStart, hmode]
  split
  · rfl
  · split <;> rfl

theorem decodeMicrostep_withoutTrace (op : BitVec 6) (f : Fields) (s : State) :
    decodeMicrostep op { f with tbit := false } s.withoutTrace = (decodeMicrostep op f s).map State.withoutTrace := by
  simp only [decodeMicrostep, State.withoutTrace_micro, State.withoutTrace_dec, decodeStart_withoutTrace]
  split
  · rfl
  case h_2 | h_3 =>
    cases s.dec with
    | none => rfl
    | some d =>
      simp only [Option.map_some, Decoded.withoutTrace]
      split <;> simp [orStall_setMAR] <;> rfl
  · rfl

theorem jumpWhen_withoutTrace (taken : Bool) (s : State) :
    jumpWhen taken s.withoutTrace = (jumpWhen taken s).map State.withoutTrace := by
  simp only [jumpWhen, State.jumpTo, map_ite, map_withEa, map_orRaise, map_complete]
  rfl

/-- No microsequence reads the latch or the fault record. -/
theorem executeMicrostep_withoutTrace (i : Instr) (s : State) :
    executeMicrostep i s.withoutTrace = (executeMicrostep i s).map State.withoutTrace := by
  cases i with
  | hlt f =>
    simp only [executeMicrostep, hltMicrostep, State.withoutTrace_micro]
    split <;> rfl
  | ldr f | str f | lda f | ldx f | stx f =>
    simp only [executeMicrostep, ldrMicrostep, strMicrostep, ldaMicrostep, ldxMicrostep, stxMicrostep,
      State.withoutTrace_micro, State.withoutTrace_index]
    repeat' split
    all_goals simp [orStall_setMAR, orStall_setMBR] <;> rfl
  | amr f | smr f | air f | sir f | and f =>
    simp only [executeMicrostep, amrMicrostep, smrMicrostep, airMicrostep, sirMicrostep, andMicrostep, Config.smrOrder,
      State.withoutTrace_micro]
    split <;> simp [orStall_setMAR] <;> rfl
  | jz f | jne f | jcc f | jmp f | jge f =>
    simp only [executeMicrostep, jzMicrostep, jneMicrostep, jccMicrostep, jmpMicrostep, jgeMicrostep,
      State.withoutTrace_micro]
    split
    · exact jumpWhen_withoutTrace _ s
    · rfl
  | jsr f | rfs f | sob f =>
    simp only [executeMicrostep, jsrMicrostep, rfsMicrostep, sobMicrostep, State.withoutTrace_micro]
    split <;> simp [State.jumpTo] <;> rfl
  | src f | rrc f | trr f | orr f | not f =>
    simp only [executeMicrostep, srcMicrostep, rrcMicrostep, trrMicrostep, orrMicrostep, notMicrostep,
      State.withoutTrace_micro]
    split
    · rw [map_complete]
      rfl
    · rfl

/-! ## Running an instruction -/

/-- The dispatch by instruction, said once: an instruction's opcode, fields and microsequence. -/
theorem exec_eq_runInstruction (i : Instr) (s : State) :
    exec i s = runInstruction (Config.opcodeMap i.mnemonic) i.fields (executeMicrostep i) s := by
  cases i <;> rfl

/-- No microsequence reads the trace bit. -/
theorem executeMicrostep_setTrace (i : Instr) (b : Bool) (s : State) :
    executeMicrostep (setTrace i b) s = executeMicrostep i s := by
  cases i <;> rfl

theorem setTrace_setTrace (i : Instr) (b c : Bool) : setTrace (setTrace i b) c = setTrace i c := by
  simp [setTrace]

theorem instructionControlUnit_setTrace (i : Instr) (s : State) :
    instructionControlUnit (Config.opcodeMap i.mnemonic) { i.fields with tbit := false }
        (executeMicrostep (setTrace i false)) s.withoutTrace =
      (instructionControlUnit (Config.opcodeMap i.mnemonic) i.fields (executeMicrostep i) s).map State.withoutTrace := by
  simp only [instructionControlUnit, State.withoutTrace_top]
  split
  · exact fetchMicrostep_withoutTrace s
  · exact decodeMicrostep_withoutTrace _ _ s
  · rw [executeMicrostep_setTrace, executeMicrostep_withoutTrace]

/-- Forgetting the trace bit before an instruction is forgetting it after. -/
theorem exec_setTrace_withoutTrace (i : Instr) (s : State) :
    exec (setTrace i false) s.withoutTrace = mapOutcome State.withoutTrace (exec i s) := by
  have hmnemonic : (setTrace i false).mnemonic = i.mnemonic := mnemonic_make _ _
  have hfields : (setTrace i false).fields = { i.fields with tbit := false } := fields_make _ _
  rw [exec_eq_runInstruction, exec_eq_runInstruction, hmnemonic, hfields]
  exact toEnd_map withoutTrace_commutes (instructionControlUnit_setTrace i) maxTicks s

/-- Settles O56: with the trace bit forgotten, both runs are the run of the instruction without it. -/
theorem traceBitHasNoEffect : Obligations.TraceBitHasNoEffect := by
  unfold Obligations.TraceBitHasNoEffect
  intro i b s t _ ht
  have hwithout : mapOutcome State.withoutTrace (exec (setTrace i b) s) = .next t.withoutTrace :=
    calc mapOutcome State.withoutTrace (exec (setTrace i b) s)
        = exec (setTrace (setTrace i b) false) s.withoutTrace := (exec_setTrace_withoutTrace _ s).symm
      _ = exec (setTrace i false) s.withoutTrace := by rw [setTrace_setTrace]
      _ = mapOutcome State.withoutTrace (exec i s) := exec_setTrace_withoutTrace i s
      _ = .next t.withoutTrace := by rw [ht, mapOutcome]
  exact mapOutcome_eq_next hwithout

end Sys2Proof.Machine
end

section
/-!
PROOFS. The instruction cycle (40_cycle.md): what the microsteps of FETCH (R76, R77) and DECODE (R78 to R80) answer, the
stall of a microstep that finds the memory unit busy (R74), and the machine after its stop (R72).
-/

namespace Sys2Proof.Machine

open Sys2Proof

/-! ## A stopped machine -/

theorem fetchTicks_stopped {n : Nat} {s : State} (h : s.stopped = true) : fetchTicks n s = .next s := by
  cases n with
  | zero => rfl
  | succ n => rw [fetchTicks, if_neg fun hrun => by simp [h] at hrun]

theorem step_of_stopped {s : State} (h : s.stopped = true) : step s = .next s := by
  rw [step, fetchInstruction, fetchTicks_stopped h]
  exact if_pos h

theorem tick_of_stopped {s : State} (h : s.stopped = true) : tick s = .next s := tickWith_stopped h

/-- Settles O46: neither the tick nor the fetch of a step passes its test for the run's end. -/
theorem stoppedMachinesNeverChange : Obligations.StoppedMachinesNeverChange := by
  unfold Obligations.StoppedMachinesNeverChange
  intro s h
  have hstop : s.stopped = true := by
    rw [State.stopped, Bool.or_eq_true, Option.isSome_iff_ne_none]
    exact h.symm
  exact ⟨tick_of_stopped hstop, step_of_stopped hstop⟩

/-! ## A step runs the decoded instruction -/

theorem runCurrent_of_decode {s : State} {i : Instr} (h : decode s.currentWord = .ok i) : runCurrent s = exec i s := by
  rw [runCurrent, h]

/-- Settles O47: the fetch leaves `State.afterFetch`, whose current word is the one read. -/
theorem stepRunsTheDecodedInstruction : Obligations.StepRunsTheDecodedInstruction := by
  unfold Obligations.StepRunsTheDecodedInstruction
  intro s i h hp hdec _
  rw [step_of_ready h hp, runCurrent_of_decode (by rwa [currentWord_afterFetch h])]
  rfl

section

variable {s : State}

/-! ## The parts of the control unit -/

theorem controlUnitPhase_of_fetch (ht : s.top = .fetch) : controlUnitPhase s = fetchMicrostep s := by
  rw [controlUnitPhase, ht]

theorem controlUnitPhase_of_decode (ht : s.top = .decode) :
    controlUnitPhase s = decodeMicrostep (opcodeField s.ir) (fieldsOf s.ir) s := by
  rw [controlUnitPhase, ht]

/-- The microsequence of a word: its instruction's, or the fault of an unhandled opcode (R67, R81). -/
def wordMicrostep (w : Word) (s : State) : PhaseResult :=
  match decode w with
  | .ok i => executeMicrostep i s
  | .error (.unhandledOpcode op) => unhandledMicrostep op s

theorem wordMicrostep_of_decode {w : Word} {i : Instr} (h : decode w = .ok i) :
    wordMicrostep w s = executeMicrostep i s := by
  rw [wordMicrostep, h]

theorem controlUnitPhase_of_execute {d : Decoded} (ht : s.top = .execute) (hd : s.dec = some d) :
    controlUnitPhase s = wordMicrostep (packWord d.opcode d.fields) s := by
  rw [controlUnitPhase, ht]
  simp only [hd]
  rfl

/-! ## FETCH (R76, R77) -/

theorem fetchMicrostep_request (hm : s.micro = 0) :
    fetchMicrostep s =
      if s.mstate.busy then .done s else .done { s with cc := 0, mar := s.pc, mstate := .preFetch, micro := 1 } := by
  rw [fetchMicrostep, hm]
  simp only [orStall_setMAR, construct_nat_ok s.pc.isLt, orRaise_ok, State.nextMicro, BitVec.ofNat_toNat,
    BitVec.setWidth_eq]

theorem fetchMicrostep_move (hm : s.micro = 1) :
    fetchMicrostep s = .done { s with ir := s.mbr, top := .decode, micro := 0 } := by
  rw [fetchMicrostep, hm]
  rfl

/-- A tick whose read finds no cell: the control unit's actions stand and the fault is recorded (20_memory.md R43). -/
theorem tick_read_out_of_range {s1 : State} {b : Nat} (hrun : s.stopped = false) (hcu : controlUnitPhase s = .done s1)
    (ha : s1.astate = .none) (hm : s1.mstate = .preFetch) (hmar : s1.mar.toNat = b) (hb : 2048 ≤ b) :
    tick s = .next (s1.takeFault (.addressOutOfRange b) .memory) := by
  subst hmar
  exact tickWith_memory_raise hrun hcu (aluPhase_of_none ha) (memoryPhase_of_outOfRange (.inl hm) hb)

end

/-- Settles O18: the two branches of µ0 and the move of µ1. -/
theorem fetchFollowsItsTwoMicrosteps : Obligations.FetchFollowsItsTwoMicrosteps := by
  unfold Obligations.FetchFollowsItsTwoMicrosteps
  intro s ht
  rw [controlUnitPhase_of_fetch ht]
  refine ⟨fun hm hb => ?stall, fun hm hb => ?request, fetchMicrostep_move⟩
  case stall => rw [fetchMicrostep_request hm, if_pos ((busy_eq_true_iff _).2 hb)]
  case request =>
    have hcu := fetchMicrostep_request hm
    rw [if_neg (by rw [hb]; decide)] at hcu
    exact ⟨hcu, fun hrun ha hp =>
      tick_read_out_of_range hrun ((controlUnitPhase_of_fetch ht).trans hcu) ha rfl rfl hp⟩

/-! ## DECODE (R78 to R80) -/

section

variable {s : State} {op : BitVec 6} {f : Fields}

theorem eaMode_eq_direct_iff (f : Fields) : eaMode f = .direct ↔ f.ibit = false ∧ f.xfi = 0 := by
  unfold eaMode
  split_ifs <;> simp_all

theorem eaMode_eq_registerIndirect_iff (f : Fields) : eaMode f = .registerIndirect ↔ f.ibit = false ∧ f.xfi ≠ 0 := by
  unfold eaMode
  split_ifs <;> simp_all

theorem eaMode_eq_indexed_iff (f : Fields) : eaMode f = .indexed ↔ f.ibit = true ∧ f.xfi = 0 := by
  unfold eaMode
  split_ifs <;> simp_all

theorem eaMode_eq_indexedOffset_iff (f : Fields) : eaMode f = .indexedOffset ↔ f.ibit = true ∧ f.xfi ≠ 0 := by
  unfold eaMode
  split_ifs <;> simp_all

/-- AIR and SIR have no effective address. -/
theorem decodeStart_of_immediate (h : op = Config.opcodeMap .AIR ∨ op = Config.opcodeMap .SIR) :
    decodeStart op f s = { s with dec := some ⟨op, f, .none⟩, ea := none, top := .execute, micro := 0 } := by
  rw [decodeStart, if_pos h]
  rfl

theorem decodeStart_of_direct (h : ¬(op = Config.opcodeMap .AIR ∨ op = Config.opcodeMap .SIR))
    (hmode : eaMode f = .direct) :
    decodeStart op f s =
      { s with dec := some ⟨op, f, .direct⟩, ea := some f.addr.toNat, top := .execute, micro := 0 } := by
  rw [decodeStart, if_neg h, hmode]
  rfl

/-- The other modes latch the fields and go on to µ1. -/
theorem decodeStart_goes_on (h : ¬(op = Config.opcodeMap .AIR ∨ op = Config.opcodeMap .SIR))
    (hmode : eaMode f ≠ .direct) (hm : s.micro = 0) :
    decodeStart op f s = { s with dec := some ⟨op, f, eaMode f⟩, micro := 1 } := by
  rw [decodeStart, if_neg h]
  split
  · next hd => exact absurd hd hmode
  · rw [State.nextMicro, hm]

theorem decodeMicrostep_start (hm : s.micro = 0) : decodeMicrostep op f s = .done (decodeStart op f s) := by
  rw [decodeMicrostep, hm]
  rfl

theorem decodeMicrostep_registerIndirect {d : Decoded} (hm : s.micro = 1) (hd : s.dec = some d)
    (hmode : d.mode = .registerIndirect) :
    decodeMicrostep op f s = .done { s with ea := some (s.baseAddress d.fields), top := .execute, micro := 0 } := by
  rw [decodeMicrostep, hm]
  simp only [hd, hmode, State.enter]

/-- The address that DECODE µ1 of a mode with indirection reads. -/
def State.decodeReadAddress (s : State) (d : Decoded) : Nat :=
  if d.mode = .indexed then d.fields.addr.toNat else s.baseAddress d.fields

theorem decodeMicrostep_request {d : Decoded} (hm : s.micro = 1) (hd : s.dec = some d)
    (hmode : d.mode = .indexed ∨ d.mode = .indexedOffset) :
    decodeMicrostep op f s =
      if s.mstate.busy then .done s
      else orRaise (construct 13 (s.decodeReadAddress d)) fun v =>
        .done { s with mar := v, mstate := .preFetch, micro := 2 } := by
  rw [decodeMicrostep, hm]
  obtain hmode | hmode := hmode <;>
    simp [hd, hmode, orStall_setMAR, State.decodeReadAddress, State.nextMicro, hm]

theorem decodeMicrostep_take {d : Decoded} (hm : s.micro = 2) (hd : s.dec = some d)
    (hmode : d.mode = .indexed ∨ d.mode = .indexedOffset) :
    decodeMicrostep op f s = .done { s with ea := some s.mbr.toNat, top := .execute, micro := 0 } := by
  rw [decodeMicrostep, hm]
  obtain hmode | hmode := hmode <;> simp only [hd, hmode, State.enter]

theorem decodeMicrostep_stalls {d : Decoded} (hm : s.micro = 1) (hd : s.dec = some d)
    (hmode : d.mode = .indexed ∨ d.mode = .indexedOffset) (hb : s.mstate.busy = true) :
    decodeMicrostep op f s = .done s := by
  rw [decodeMicrostep_request hm hd hmode, if_pos hb]

theorem decodeMicrostep_reads {d : Decoded} {b : Nat} (hm : s.micro = 1) (hd : s.dec = some d)
    (hmode : d.mode = .indexed ∨ d.mode = .indexedOffset) (hb : s.mstate.busy = false) (ha : s.decodeReadAddress d = b)
    (hfits : b ≤ 8191) :
    decodeMicrostep op f s = .done { s with mar := BitVec.ofNat 13 b, mstate := .preFetch, micro := 2 } := by
  rw [decodeMicrostep_request hm hd hmode, if_neg (by rw [hb]; decide), ha, construct_nat_ok (Nat.lt_succ_of_le hfits),
    orRaise_ok]

theorem decodeMicrostep_too_wide {d : Decoded} {b : Nat} (hm : s.micro = 1) (hd : s.dec = some d)
    (hmode : d.mode = .indexed ∨ d.mode = .indexedOffset) (hb : s.mstate.busy = false) (ha : s.decodeReadAddress d = b)
    (hwide : 8191 < b) : decodeMicrostep op f s = .raise (.construction 13 b) := by
  rw [decodeMicrostep_request hm hd hmode, if_neg (by rw [hb]; decide), ha, construct_nat_error hwide, orRaise_error]

theorem baseAddress_of_get {x : Addr} (h : s.index.get f.xfi = some x) : s.baseAddress f = x.toNat + f.addr.toNat := by
  rw [State.baseAddress, State.indexValue, h]

end

/-- Settles O19: µ0 by the mode that the fields select, µ1 by the mode latched, µ2 for the two modes that read. -/
theorem decodeFollowsItsMicrosteps : Obligations.DecodeFollowsItsMicrosteps := by
  unfold Obligations.DecodeFollowsItsMicrosteps
  intro s op f ht
  have hcu := controlUnitPhase_of_decode ht
  refine ⟨fun hm hop hf => ⟨fun himm => ?immediate, fun hair hsir => ?modes⟩, fun hm hd x hx => ?registerIndirect,
    fun hm hd => ?indexed, fun hm hd x b hx hb => ?indexedOffset, fun hm hd => ?take⟩
  case immediate => rw [hcu, hop, hf, decodeMicrostep_start hm, decodeStart_of_immediate himm]
  case modes =>
    have himm := not_or.2 ⟨hair, hsir⟩
    rw [hcu, hop, hf, decodeMicrostep_start hm]
    refine ⟨fun hi hx => ?_, fun hi hx => ?_, fun hi hx => ?_, fun hi hx => ?_⟩
    · rw [decodeStart_of_direct himm ((eaMode_eq_direct_iff f).2 ⟨hi, hx⟩)]
    · have hmode := (eaMode_eq_registerIndirect_iff f).2 ⟨hi, hx⟩
      rw [decodeStart_goes_on himm (by rw [hmode]; decide) hm, hmode]
    · have hmode := (eaMode_eq_indexed_iff f).2 ⟨hi, hx⟩
      rw [decodeStart_goes_on himm (by rw [hmode]; decide) hm, hmode]
    · have hmode := (eaMode_eq_indexedOffset_iff f).2 ⟨hi, hx⟩
      rw [decodeStart_goes_on himm (by rw [hmode]; decide) hm, hmode]
  case registerIndirect =>
    rw [hcu, decodeMicrostep_registerIndirect hm hd rfl, baseAddress_of_get hx]
  case indexed =>
    have hfits : f.addr.toNat ≤ 8191 := by have := f.addr.isLt; omega
    rw [hcu]
    exact ⟨fun hb => decodeMicrostep_stalls hm hd (.inl rfl) ((busy_eq_true_iff _).2 hb),
      fun hb => decodeMicrostep_reads hm hd (.inl rfl) hb rfl hfits⟩
  case indexedOffset =>
    have ha : s.decodeReadAddress ⟨op, f, .indexedOffset⟩ = b := (baseAddress_of_get hx).trans hb
    refine ⟨fun hbusy => ?_, fun hbusy hfits => ?_, fun hbusy hrun hidle hlow hfits => ?_, fun hbusy hwide => ?_⟩
    · rw [hcu, decodeMicrostep_stalls hm hd (.inr rfl) ((busy_eq_true_iff _).2 hbusy)]
    · rw [hcu, decodeMicrostep_reads hm hd (.inr rfl) hbusy ha hfits]
    · exact tick_read_out_of_range hrun (hcu.trans (decodeMicrostep_reads hm hd (.inr rfl) hbusy ha hfits)) hidle rfl
        ((BitVec.toNat_ofNat b 13).trans (Nat.mod_eq_of_lt (by omega))) hlow
    · rw [hcu, decodeMicrostep_too_wide hm hd (.inr rfl) hbusy ha hwide]
  case take =>
    obtain hd | hd := hd
    · rw [hcu, decodeMicrostep_take hm hd (.inl rfl)]
    · rw [hcu, decodeMicrostep_take hm hd (.inr rfl)]

/-- An opcode of the table is that of one mnemonic only. -/
theorem opcodeMap_injective {m m' : Mnemonic} (h : Config.opcodeMap m = Config.opcodeMap m') : m = m' := by
  have hfound := mnemonicOf_opcodeMap m
  rw [h, mnemonicOf_opcodeMap] at hfound
  exact (Option.some.inj hfound).symm

/-- Settles O38: `exec` is the ticks of the instruction's opcode and fields, whose decode read faults whatever the
microsequence. -/
theorem decodeReadOutsideMemoryFaults : Obligations.DecodeReadOutsideMemoryFaults := by
  unfold Obligations.DecodeReadOutsideMemoryFaults
  rintro i s b h hair hsir hi rfl
  have hair' : Config.opcodeMap i.mnemonic ≠ Config.opcodeMap .AIR := fun heq => hair (opcodeMap_injective heq)
  have hsir' : Config.opcodeMap i.mnemonic ≠ Config.opcodeMap .SIR := fun heq => hsir (opcodeMap_injective heq)
  rw [exec_eq_runInstruction]
  exact ⟨fun hlow hhigh => runInstruction_decode_read_out_of_range h hair' hsir' hi hlow hhigh,
    fun hwide => runInstruction_decode_read_too_wide h hair' hsir' hi hwide⟩

/-! ## Stalls (R74) -/

section

variable {s : State}

/-- The word of the latched fields decodes to the instruction of the latched opcode. -/
theorem decode_packWord {m : Mnemonic} {op : BitVec 6} (f : Fields) (h : mnemonicOf Config.opcodeMap op = some m) :
    decode (packWord op f) = .ok (Instr.make m f) := by
  rw [decode_eq_ok_iff, opcodeField_packWord, fieldsOf_packWord, mnemonic_make, fields_make]
  exact ⟨opcodeMap_of_mnemonicOf h, rfl⟩

theorem withEa_of_some {ea : Nat} (k : Nat → PhaseResult) (h : s.ea = some ea) : s.withEa k = k ea := by
  rw [State.withEa, h]

theorem IndexRegs.get_eq_none_iff (x : IndexRegs) (i : Fin 4) : x.get i = none ↔ i = 0 := by
  fin_cases i <;> simp [IndexRegs.get]

/-- A request for the effective address finds the unit busy. -/
theorem withEa_setMAR_of_busy (k : State → PhaseResult) (hea : s.ea.isSome = true) (hb : s.mstate.busy = true) :
    (s.withEa fun ea => orStall s (s.setMAR ea) k) = .done s := by
  obtain ⟨ea, hea⟩ := Option.isSome_iff_exists.1 hea
  rw [withEa_of_some _ hea, setMAR_of_busy s ea hb, orStall]

/-- E0 of the instructions that access memory stalls while the unit is busy. -/
theorem executeMicrostep_stalls {m : Mnemonic} (f : Fields) (hm : s.micro = 0) (hea : s.ea.isSome = true)
    (hb : s.mstate.busy = true)
    (hacc : m ∈ [Mnemonic.LDR, .STR, .AMR, .SMR] ∨ (m ∈ [Mnemonic.LDX, .STX] ∧ f.xfi ≠ 0)) :
    executeMicrostep (Instr.make m f) s = .done s := by
  have hreq := fun k => withEa_setMAR_of_busy (s := s) k hea hb
  simp only [List.mem_cons, List.not_mem_nil, or_false] at hacc
  obtain (rfl | rfl | rfl | rfl) | ⟨rfl | rfl, hx⟩ := hacc
  case inr.inl => simp [Instr.make, executeMicrostep, ldxMicrostep, hm, hx, hreq]
  case inr.inr =>
    cases hget : s.index.get f.xfi with
    | none => exact absurd ((IndexRegs.get_eq_none_iff _ _).1 hget) hx
    | some x => simp [Instr.make, executeMicrostep, stxMicrostep, hm, hget, hreq]
  all_goals
    simp [Instr.make, executeMicrostep, ldrMicrostep, strMicrostep, amrMicrostep, smrMicrostep, hm, hreq]

/-- Every place of `State.MakesRequest` stalls while the unit is busy. -/
theorem controlUnitPhase_stalls (hb : s.mstate.busy = true) (hreq : s.MakesRequest) : controlUnitPhase s = .done s := by
  obtain ⟨ht, hm⟩ | ⟨ht, hm, hmode⟩ | ⟨ht, hm, hea, hacc⟩ := hreq
  · rw [controlUnitPhase_of_fetch ht, fetchMicrostep_request hm, if_pos hb]
  · rw [controlUnitPhase_of_decode ht]
    cases hd : s.dec with
    | none => simp [hd] at hmode
    | some d => exact decodeMicrostep_stalls hm hd (by simpa [hd] using hmode) hb
  · cases hd : s.dec with
    | none => simp [hd] at hacc
    | some d =>
      rw [controlUnitPhase_of_execute ht hd]
      cases hop : mnemonicOf Config.opcodeMap d.opcode with
      | none => simp [hd, hop] at hacc
      | some m =>
        rw [wordMicrostep_of_decode (decode_packWord d.fields hop)]
        exact executeMicrostep_stalls d.fields hm hea hb (by simpa [hd, hop] using hacc)

end

/-- Settles O17: the stalled microstep leaves the state to the two units, of which only the memory unit has work. -/
theorem busyMicrostepsStall : Obligations.BusyMicrostepsStall := by
  unfold Obligations.BusyMicrostepsStall
  intro s hrun hb hreq
  have hcu := controlUnitPhase_stalls hb hreq
  exact ⟨hcu, fun ⟨ha, _⟩ => tickWith_done hrun hcu (aluPhase_of_none ha) (memoryPhase_of_busy hb)⟩

end Sys2Proof.Machine
end

section
/-!
PROOFS. What a microstep of EXECUTE can do to the control unit and to the units (40_cycle.md R73, R81 to R84), said once for
all 24 microsequences: it stalls, goes on to the next microstep, completes, or halts.
-/

namespace Sys2Proof.Machine

open Sys2Proof

/-! ## What the units' phases do -/

/-- The state of the memory unit after its phase, when the phase raises nothing (20_memory.md R39). -/
def MemState.afterPhase : MemState → MemState
  | .preFetch => .fetch
  | .preStore => .store
  | .none | .fetch | .store => .none

theorem memoryPhase_mstate {s t : State} (h : memoryPhase s = .done t) : t.mstate = s.mstate.afterPhase := by
  obtain ⟨hm, -, rfl⟩ | ⟨hm, -, rfl⟩ | ⟨hb, rfl⟩ | ⟨hm, rfl⟩ := memoryPhase_done h
  · rw [hm]; rfl
  · rw [hm]; rfl
  · obtain hm | hm := (busy_eq_true_iff _).1 hb <;> rw [hm] <;> rfl
  · rw [hm]; rfl

/-- The latches and the place of the control unit, PC, IR and the run's end are those of `s`. -/
structure State.SameControl (s t : State) : Prop where
  top : t.top = s.top
  micro : t.micro = s.micro
  dec : t.dec = s.dec
  ea : t.ea = s.ea
  nextPC : t.nextPC = s.nextPC
  pc : t.pc = s.pc
  ir : t.ir = s.ir
  halted : t.halted = s.halted
  fault : t.fault = s.fault

theorem aluPhase_sameControl {s t : State} (h : aluPhase s = .done t) :
    s.SameControl t ∧ t.mstate = s.mstate ∧ t.mar = s.mar := by
  obtain ⟨-, rfl⟩ | ⟨-, rfl⟩ | ⟨-, a, b, c, r, -, -, -, -, rfl⟩ := aluPhase_done h
  all_goals exact ⟨⟨rfl, rfl, rfl, rfl, rfl, rfl, rfl, rfl, rfl⟩, rfl, rfl⟩

theorem memoryPhase_sameControl {s t : State} (h : memoryPhase s = .done t) : s.SameControl t := by
  obtain ⟨-, -, rfl⟩ | ⟨-, -, rfl⟩ | ⟨-, rfl⟩ | ⟨-, rfl⟩ := memoryPhase_done h
  all_goals exact ⟨rfl, rfl, rfl, rfl, rfl, rfl, rfl, rfl, rfl⟩

theorem State.SameControl.trans {s t u : State} (h : s.SameControl t) (h' : t.SameControl u) : s.SameControl u where
  top := h'.top.trans h.top
  micro := h'.micro.trans h.micro
  dec := h'.dec.trans h.dec
  ea := h'.ea.trans h.ea
  nextPC := h'.nextPC.trans h.nextPC
  pc := h'.pc.trans h.pc
  ir := h'.ir.trans h.ir
  halted := h'.halted.trans h.halted
  fault := h'.fault.trans h.fault

/-- A tick of a running machine that takes no fault is the control unit's microstep; the units' phases after it move
nothing of the control unit and take the memory unit one state on. -/
theorem tickWith_next_unfaulted {cu : State → PhaseResult} {s t : State} (h : tickWith cu s = .next t)
    (hs : s.stopped = false) (ht : t.fault = none) :
    ∃ s1, cu s = .done s1 ∧ s1.SameControl t ∧ t.mstate = s1.mstate.afterPhase := by
  have hfault : ∀ u k ph, t ≠ State.takeFault u k ph := fun u k ph heq => by simp [heq] at ht
  obtain ⟨hstop, -⟩ | ⟨-, k, -, heq⟩ | ⟨-, s1, k, -, -, heq⟩ | ⟨-, s1, s2, k, -, -, -, heq⟩ |
    ⟨-, s1, s2, h1, h2, h3⟩ := tickWith_next h
  · simp [hs] at hstop
  · exact absurd heq (hfault _ _ _)
  · exact absurd heq (hfault _ _ _)
  · exact absurd heq (hfault _ _ _)
  · obtain ⟨hsame, hmstate, -⟩ := aluPhase_sameControl h2
    exact ⟨s1, h1, hsame.trans (memoryPhase_sameControl h3), (memoryPhase_mstate h3).trans (congrArg _ hmstate)⟩

theorem tickWith_next_running {cu : State → PhaseResult} {s t : State} (h : tickWith cu s = .next t)
    (ht : t.stopped = false) :
    ∃ s1, cu s = .done s1 ∧ s1.SameControl t ∧ t.mstate = s1.mstate.afterPhase := by
  refine tickWith_next_unfaulted h ?_ ((stopped_eq_false_iff t).1 ht).2
  cases hs : s.stopped with
  | false => rfl
  | true =>
    rw [tickWith_stopped hs] at h
    cases h
    exact hs.symm.trans ht

/-! ## The stages of the ALU -/

/-- The ALU is as in `s`. -/
structure State.SameAlu (s t : State) : Prop where
  astate : t.astate = s.astate
  op1 : t.op1 = s.op1
  op2 : t.op2 = s.op2
  ctrl : t.ctrl = s.ctrl
  result : t.result = s.result

theorem aluAtStage_zero_iff (s : State) : s.aluAtStage 0 = true ↔ s.AluIdle := by
  simp [State.aluAtStage]

theorem aluAtStage_one_iff (s : State) :
    s.aluAtStage 1 = true ↔
      s.astate = .none ∧ s.op1.isSome = true ∧ s.op2 = none ∧ s.ctrl = none ∧ s.result = none := by
  simp [State.aluAtStage, and_assoc]

theorem aluAtStage_two_iff (s : State) :
    s.aluAtStage 2 = true ↔
      s.astate = .none ∧ s.op1.isSome = true ∧ s.op2.isSome = true ∧ s.ctrl = none ∧ s.result = none := by
  simp [State.aluAtStage, and_assoc]

theorem aluAtStage_three_iff (s : State) :
    s.aluAtStage 3 = true ↔
      s.astate = .none ∧ s.op1.isSome = true ∧ s.op2.isSome = true ∧
        (s.ctrl.isSome = true ∧ s.ctrl ≠ some .divide) ∧ s.result = none := by
  simp [State.aluAtStage, and_assoc]

theorem aluAtStage_four_iff (s : State) :
    s.aluAtStage 4 = true ↔
      s.astate = .finished ∧ s.op1 = none ∧ s.op2 = none ∧ s.ctrl = none ∧ s.result.isSome = true := by
  simp [State.aluAtStage, and_assoc]

/-- The ALU phase raises nothing and leaves the ALU at a stage. -/
def State.AluReaches (s : State) (n : Nat) : Prop := ∃ t, aluPhase s = .done t ∧ t.aluAtStage n = true

theorem aluReaches_of_idle {s t : State} (h : s.aluAtStage 0 = true) (hu : s.SameAlu t) : t.AluReaches 0 := by
  rw [aluAtStage_zero_iff] at h
  obtain ⟨ha, h1, h2, hc, hr⟩ := h
  refine ⟨t, aluPhase_of_none (hu.astate.trans ha), ?_⟩
  rw [aluAtStage_zero_iff]
  exact ⟨hu.astate.trans ha, hu.op1.trans h1, hu.op2.trans h2, hu.ctrl.trans hc, hu.result.trans hr⟩

/-- A result is dropped in the ALU phase after it was read (41_alu.md R90, R92). -/
theorem aluReaches_of_finished {s t : State} (h : s.aluAtStage 4 = true) (hu : s.SameAlu t) : t.AluReaches 0 := by
  rw [aluAtStage_four_iff] at h
  obtain ⟨ha, h1, h2, hc, -⟩ := h
  refine ⟨{ t with astate := .none, result := none }, by rw [aluPhase, hu.astate.trans ha], ?_⟩
  rw [aluAtStage_zero_iff]
  exact ⟨rfl, hu.op1.trans h1, hu.op2.trans h2, hu.ctrl.trans hc, rfl⟩

/-- Only DIVIDE can fail. -/
theorem aluCompute_ok {c : AluControl} (hc : c ≠ .divide) (a b : Word) : ∃ r, aluCompute c a b = .ok r := by
  cases c with
  | divide => exact absurd rfl hc
  | add | subtract | and | multiply => exact ⟨_, rfl⟩

/-- The signal of ready inputs is answered by a result in the same tick (41_alu.md R89, R90). -/
theorem aluReaches_of_signalReady {s : State} (h : s.aluAtStage 3 = true) : s.signalReady.nextMicro.AluReaches 4 := by
  rw [aluAtStage_three_iff] at h
  obtain ⟨-, h1, h2, ⟨hc, hdiv⟩, -⟩ := h
  obtain ⟨a, ha⟩ := Option.isSome_iff_exists.1 h1
  obtain ⟨b, hb⟩ := Option.isSome_iff_exists.1 h2
  obtain ⟨c, hc⟩ := Option.isSome_iff_exists.1 hc
  obtain ⟨r, hr⟩ := aluCompute_ok (fun heq => hdiv (heq ▸ hc)) a b
  refine ⟨s.signalReady.nextMicro.storeResult r.1 r.2, ?_, ?_⟩
  · simp [aluPhase, ha, hb, hc, hr, orRaise_ok]
  · rw [aluAtStage_four_iff]
    exact ⟨rfl, rfl, rfl, rfl, rfl⟩

theorem aluReaches_of_setOperand1 {s : State} (p : Word) (h : s.aluAtStage 0 = true) :
    (s.setOperand1 p).nextMicro.AluReaches 1 := by
  rw [aluAtStage_zero_iff] at h
  obtain ⟨ha, -, h2, hc, hr⟩ := h
  exact ⟨_, aluPhase_of_none ha, (aluAtStage_one_iff _).2 ⟨ha, rfl, h2, hc, hr⟩⟩

theorem aluReaches_of_setOperand2 {s : State} (p : Word) (h : s.aluAtStage 1 = true) :
    (s.setOperand2 p).nextMicro.AluReaches 2 := by
  rw [aluAtStage_one_iff] at h
  obtain ⟨ha, h1, -, hc, hr⟩ := h
  exact ⟨_, aluPhase_of_none ha, (aluAtStage_two_iff _).2 ⟨ha, h1, rfl, hc, hr⟩⟩

theorem aluReaches_of_setControl {s : State} {c : AluControl} (hdiv : c ≠ .divide) (h : s.aluAtStage 2 = true) :
    (s.setControl c).nextMicro.AluReaches 3 := by
  rw [aluAtStage_two_iff] at h
  obtain ⟨ha, h1, h2, -, hr⟩ := h
  exact ⟨_, aluPhase_of_none ha,
    (aluAtStage_three_iff _).2 ⟨ha, h1, h2, ⟨rfl, fun heq => hdiv (Option.some.inj heq)⟩, hr⟩⟩

/-! ## Microsteps that go on, complete or halt -/

/-- A microstep of EXECUTE that goes on to the next one: it moves µ, keeps the latches, and takes the units from where the
invariant has them at its own place to where the phases of this tick bring them to the invariant at the next. -/
structure State.GoesOn (m : Mnemonic) (s t : State) : Prop where
  top : t.top = s.top
  micro : t.micro = s.micro + 1
  more : t.micro < executeMicrosteps m
  dec : t.dec = s.dec
  ea : t.ea = s.ea
  nextPC : t.nextPC = s.nextPC
  pc : t.pc = s.pc
  halted : t.halted = s.halted
  fault : t.fault = s.fault
  mem : s.mstate = memStateAt m s.micro → t.mstate.afterPhase = memStateAt m t.micro
  alu : s.aluAtStage (aluStageAt m s.micro) = true → t.AluReaches (aluStageAt m t.micro)

/-- A microstep of EXECUTE that completes: it is the last one, clears the latches and leaves the units alone (R84). -/
structure State.Finishes (m : Mnemonic) (s t : State) : Prop where
  last : s.micro + 1 = executeMicrosteps m
  boundary : t.AtBoundary
  dec : t.dec = none
  ea : t.ea = none
  nextPC : t.nextPC = none
  halted : t.halted = s.halted
  fault : t.fault = s.fault
  alu : s.SameAlu t
  mem : t.mstate = s.mstate

/-- What a microstep of EXECUTE can answer. -/
inductive State.ExecuteMoves (m : Mnemonic) (s : State) : State → Prop
  | stalls (hm : s.micro = 0) (hb : s.mstate.busy = true) : ExecuteMoves m s s
  | goesOn {t : State} (h : s.GoesOn m t) : ExecuteMoves m s t
  | finishes {t : State} (h : s.Finishes m t) : ExecuteMoves m s t
  | halts (hm : s.micro = 0) (hhlt : m = .HLT) : ExecuteMoves m s s.halt

section

variable {m : Mnemonic} {s : State}

/-- Completion of the last microstep, when it has written registers, flags or `nextPC` only. -/
theorem complete_finishes {u : State} {n : Nat} (hm : s.micro = n) (hlast : n + 1 = executeMicrosteps m := by rfl)
    (hhalted : u.halted = s.halted := by rfl) (hfault : u.fault = s.fault := by rfl)
    (halu : s.SameAlu u := by constructor <;> rfl) (hmem : u.mstate = s.mstate := by rfl) :
    u.complete.Ensures (s.ExecuteMoves m) := by
  rw [ensures_iff]
  intro t ht
  obtain ⟨p, rfl, -⟩ := complete_done ht
  exact .finishes ⟨by rw [hm, hlast], ⟨rfl, rfl⟩, rfl, rfl, rfl, hhalted, hfault,
    ⟨halu.astate, halu.op1, halu.op2, halu.ctrl, halu.result⟩, hmem⟩

theorem ensures_jumpTo {P : State → Prop} {u : State} {x : Int} {k : State → PhaseResult}
    (hk : ∀ p, (k { u with nextPC := some p }).Ensures P) : (u.jumpTo x k).Ensures P := by
  rw [State.jumpTo, ensures_orRaise]
  exact fun p _ => hk p

theorem jumpWhen_finishes (taken : Bool) (hm : s.micro = 0) (hlast : 0 + 1 = executeMicrosteps m) :
    (jumpWhen taken s).Ensures (s.ExecuteMoves m) := by
  rw [jumpWhen, ensures_ite, ensures_withEa]
  exact ⟨fun _ ea _ => ensures_jumpTo fun p => complete_finishes hm hlast, fun _ => complete_finishes hm hlast⟩

/-! ## Requests -/

theorem memStateAt_zero (m : Mnemonic) : memStateAt m 0 = .none := rfl

theorem aluStageAt_zero (m : Mnemonic) : aluStageAt m 0 = 0 := by cases m <;> rfl

/-- The instructions that access memory do so in E0 and stage the ALU, if at all, from E1 on. -/
theorem accessing_mnemonic (h : memStateAt m 1 ≠ .none) : 1 < executeMicrosteps m ∧ aluStageAt m 1 = 0 := by
  revert h
  cases m <;> decide

/-- E0 of an instruction with a memory access, after an accepted request. -/
theorem request_goesOn {t : State} (hm : s.micro = 0) (hacc : memStateAt m 1 ≠ .none)
    (hmem : t.mstate.afterPhase = memStateAt m 1) (hc : s.SameControl t := by constructor <;> rfl)
    (hu : s.SameAlu t := by constructor <;> rfl) : s.GoesOn m t.nextMicro := by
  obtain ⟨hmore, hstage⟩ := accessing_mnemonic hacc
  have hnext : t.nextMicro.micro = 1 := congrArg (· + 1) (hc.micro.trans hm)
  refine ⟨hc.top, hnext.trans (by rw [hm]), by rwa [hnext], hc.dec, hc.ea, hc.nextPC, hc.pc, hc.halted, hc.fault,
    fun _ => by rwa [hnext], ?_⟩
  rw [hnext, hm, hstage, aluStageAt_zero]
  exact fun hidle => aluReaches_of_idle hidle ⟨hu.astate, hu.op1, hu.op2, hu.ctrl, hu.result⟩

theorem readRequest_moves (hm : s.micro = 0) (hacc : memStateAt m 1 = .fetch) :
    (s.withEa fun ea => orStall s (s.setMAR ea) fun s1 => .done s1.nextMicro).Ensures (s.ExecuteMoves m) := by
  rw [ensures_withEa]
  intro ea _
  rw [orStall_setMAR, ensures_ite, ensures_orRaise]
  exact ⟨fun hb => .stalls hm hb, fun _ v _ => .goesOn (request_goesOn (t := { s with mar := v, mstate := .preFetch }) hm
    (by rw [hacc]; decide) hacc.symm)⟩

theorem writeRequest_moves (p : Word) (hm : s.micro = 0) (hacc : memStateAt m 1 = .store) :
    (s.withEa fun ea => orStall s (s.setMAR ea) fun s1 => orStall s (s1.setMBR p) fun s2 => .done s2.nextMicro).Ensures
      (s.ExecuteMoves m) := by
  rw [ensures_withEa]
  intro ea _
  rw [orStall_setMAR, ensures_ite, ensures_orRaise]
  exact ⟨fun hb => .stalls hm hb, fun _ v _ => .goesOn
    (request_goesOn (t := { s with mar := v, mbr := p, mstate := .preStore }) hm
      (by rw [hacc]; decide) hacc.symm)⟩

/-! ## Staging the ALU (R83) -/

theorem aluStageAt_offset {k : Nat} (hk : aluOffset m = some k) (j : Nat) : aluStageAt m (k + j) = j := by
  rw [aluStageAt, hk]
  exact Nat.add_sub_cancel_left k j

/-- An instruction that uses the ALU stages it in four microsteps and reads the result in the last. -/
theorem executeMicrosteps_of_offset {k : Nat} (hk : aluOffset m = some k) : executeMicrosteps m = k + 5 := by
  cases m <;> cases hk <;> rfl

/-- From the staging on the memory unit finishes its access and then rests. -/
theorem memStateAt_staging {k j : Nat} (hk : aluOffset m = some k) :
    (memStateAt m (k + j)).afterPhase = memStateAt m (k + j + 1) := by
  cases m <;> cases hk <;> rcases j with _ | _ | j <;> rfl

/-- A staging microstep goes on. -/
theorem staging_goesOn {t : State} {k j : Nat} (hk : aluOffset m = some k) (hm : s.micro = k + j) (hj : j < 4)
    (halu : s.aluAtStage j = true → t.nextMicro.AluReaches (j + 1))
    (hc : s.SameControl t := by constructor <;> rfl) (hmem : t.mstate = s.mstate := by rfl) :
    s.GoesOn m t.nextMicro := by
  have hnext : t.nextMicro.micro = k + (j + 1) := congrArg (· + 1) (hc.micro.trans hm)
  refine ⟨hc.top, hnext.trans (by rw [hm]; rfl), ?_, hc.dec, hc.ea, hc.nextPC, hc.pc, hc.halted, hc.fault, ?_, ?_⟩
  · rw [hnext, executeMicrosteps_of_offset hk]
    omega
  · rw [hnext, hm]
    intro hms
    rw [State.nextMicro_mstate, hmem, hms, memStateAt_staging hk, Nat.add_assoc]
  · rwa [hnext, hm, aluStageAt_offset hk, aluStageAt_offset hk]

theorem setOperand1_moves {k : Nat} (p : Word) (hk : aluOffset m = some k) (hm : s.micro = k) :
    (PhaseResult.done (s.setOperand1 p).nextMicro).Ensures (s.ExecuteMoves m) :=
  .goesOn (staging_goesOn (j := 0) hk hm (by decide) (aluReaches_of_setOperand1 p))

theorem setOperand2_moves {k : Nat} (p : Word) (hk : aluOffset m = some k) (hm : s.micro = k + 1) :
    (PhaseResult.done (s.setOperand2 p).nextMicro).Ensures (s.ExecuteMoves m) :=
  .goesOn (staging_goesOn (j := 1) hk hm (by decide) (aluReaches_of_setOperand2 p))

theorem setControl_moves {k : Nat} {c : AluControl} (hdiv : c ≠ .divide) (hk : aluOffset m = some k)
    (hm : s.micro = k + 2) : (PhaseResult.done (s.setControl c).nextMicro).Ensures (s.ExecuteMoves m) :=
  .goesOn (staging_goesOn (j := 2) hk hm (by decide) (aluReaches_of_setControl hdiv))

theorem signalReady_moves {k : Nat} (hk : aluOffset m = some k) (hm : s.micro = k + 3) :
    (PhaseResult.done s.signalReady.nextMicro).Ensures (s.ExecuteMoves m) :=
  .goesOn (staging_goesOn (j := 3) hk hm (by decide) aluReaches_of_signalReady)

/-- The last microstep of the four instructions that write the ALU's result to a register. -/
theorem writeResult_moves {k : Nat} (r : Fin 4) (hk : aluOffset m = some k) (hm : s.micro = k + 4) :
    (s.withResult fun v => (s.setReg r v).complete).Ensures (s.ExecuteMoves m) := by
  rw [ensures_withResult]
  intro v _ _
  exact complete_finishes hm (executeMicrosteps_of_offset hk).symm

/-- LDA's E0, which writes the register. -/
theorem setReg_goesOn (r : Fin 4) (v : Word) (hm : s.micro = 0) : s.GoesOn .LDA (s.setReg r v).nextMicro := by
  have hnext : (s.setReg r v).nextMicro.micro = 1 := congrArg (· + 1) hm
  refine ⟨rfl, rfl, by rw [hnext]; decide, rfl, rfl, rfl, rfl, rfl, rfl, fun hms => ?_, fun halu => ?_⟩
  · rw [State.nextMicro_mstate, State.setReg_mstate, hms, hm, hnext]
    rfl
  · rw [hm] at halu
    rw [hnext]
    exact aluReaches_of_idle halu ⟨rfl, rfl, rfl, rfl, rfl⟩

end

/-! ## The 24 microsequences -/

/-- The inversion of a microstep of EXECUTE. -/
theorem executeMicrostep_moves (i : Instr) (s : State) : (executeMicrostep i s).Ensures (s.ExecuteMoves i.mnemonic) := by
  cases i with
  | hlt f =>
    simp only [executeMicrostep, hltMicrostep]
    split
    case h_1 hm => exact .halts hm rfl
    case h_2 => trivial
  | ldr f =>
    simp only [executeMicrostep, ldrMicrostep]
    split
    case h_1 hm => exact readRequest_moves hm rfl
    case h_2 hm => exact complete_finishes hm
    case h_3 => trivial
  | str f =>
    simp only [executeMicrostep, strMicrostep]
    split
    case h_1 hm => exact writeRequest_moves _ hm rfl
    case h_2 hm => exact complete_finishes hm
    case h_3 => trivial
  | lda f =>
    simp only [executeMicrostep, ldaMicrostep]
    split
    case h_1 hm =>
      rw [ensures_withEa]
      intro ea _
      rw [ensures_orRaise]
      exact fun v _ => .goesOn (setReg_goesOn _ v hm)
    case h_2 hm => exact complete_finishes hm
    case h_3 => trivial
  | ldx f =>
    simp only [executeMicrostep, ldxMicrostep]
    split
    case h_1 hm =>
      rw [ensures_ite]
      exact ⟨fun _ => trivial, fun _ => readRequest_moves hm rfl⟩
    case h_2 hm =>
      rw [ensures_orRaise]
      exact fun v _ => complete_finishes hm
    case h_3 => trivial
  | stx f =>
    simp only [executeMicrostep, stxMicrostep]
    split
    case h_1 hm =>
      split
      · trivial
      · exact writeRequest_moves _ hm rfl
    case h_2 hm => exact complete_finishes hm
    case h_3 => trivial
  | amr f | smr f =>
    simp only [executeMicrostep, amrMicrostep, smrMicrostep, Config.smrOrder]
    split
    case h_1 hm => exact readRequest_moves hm rfl
    case h_2 hm => exact setOperand1_moves (k := 1) _ rfl hm
    case h_3 hm => exact setOperand2_moves (k := 1) _ rfl hm
    case h_4 hm => exact setControl_moves (k := 1) (by decide) rfl hm
    case h_5 hm => exact signalReady_moves (k := 1) rfl hm
    case h_6 hm => exact writeResult_moves (k := 1) _ rfl hm
    case h_7 => trivial
  | air f | sir f | and f =>
    simp only [executeMicrostep, airMicrostep, sirMicrostep, andMicrostep]
    split
    case h_1 hm => exact setOperand1_moves (k := 0) _ rfl hm
    case h_2 hm => exact setOperand2_moves (k := 0) _ rfl hm
    case h_3 hm => exact setControl_moves (k := 0) (by decide) rfl hm
    case h_4 hm => exact signalReady_moves (k := 0) rfl hm
    case h_5 hm => exact writeResult_moves (k := 0) _ rfl hm
    case h_6 => trivial
  | sob f =>
    simp only [executeMicrostep, sobMicrostep]
    split
    case h_1 hm => exact setOperand1_moves (k := 0) _ rfl hm
    case h_2 hm =>
      rw [ensures_orRaise]
      exact fun one _ => setOperand2_moves (k := 0) one rfl hm
    case h_3 hm => exact setControl_moves (k := 0) (by decide) rfl hm
    case h_4 hm => exact signalReady_moves (k := 0) rfl hm
    case h_5 hm =>
      rw [ensures_withResult]
      intro v _ _
      rw [ensures_ite, ensures_withEa]
      exact ⟨fun _ ea _ => ensures_jumpTo fun p => complete_finishes hm,
        fun _ => complete_finishes hm⟩
    case h_6 => trivial
  | jz f | jne f | jcc f | jmp f | jge f =>
    simp only [executeMicrostep, jzMicrostep, jneMicrostep, jccMicrostep, jmpMicrostep, jgeMicrostep]
    split
    case h_1 hm => exact jumpWhen_finishes _ hm rfl
    case h_2 => trivial
  | jsr f =>
    simp only [executeMicrostep, jsrMicrostep]
    split
    case h_1 hm =>
      rw [ensures_withEa]
      intro ea _
      refine ensures_jumpTo fun p => ?_
      rw [ensures_orRaise]
      exact fun v _ => complete_finishes hm
    case h_2 => trivial
  | rfs f =>
    simp only [executeMicrostep, rfsMicrostep]
    split
    case h_1 hm =>
      refine ensures_jumpTo fun p => ?_
      rw [ensures_ite]
      exact ⟨fun _ => complete_finishes hm,
        fun _ => complete_finishes hm⟩
    case h_2 => trivial
  | src f | rrc f | trr f | orr f | not f =>
    simp only [executeMicrostep, srcMicrostep, rrcMicrostep, trrMicrostep, orrMicrostep, notMicrostep]
    split
    case h_1 hm => exact complete_finishes hm
    case h_2 => trivial

end Sys2Proof.Machine
end

section
/-!
PROOFS. A step is the ticks of one instruction (40_cycle.md R70, R73, R81, R84): the control unit that `step` gives the
ticks is the machine's own as long as the instruction runs, and the bounds on ticks are never reached, since every tick
that does not end the instruction lowers `ticksLeft`.
-/

namespace Sys2Proof.Machine

open Sys2Proof

/-! ## What a microstep of FETCH or DECODE can answer -/

/-- What a microstep of FETCH can answer (R74, R76, R77). -/
inductive State.FetchMoves (s : State) : State → Prop
  | stalls (hm : s.micro = 0) (hb : s.mstate.busy = true) : FetchMoves s s
  | requests (hm : s.micro = 0) : FetchMoves s { s with cc := 0, mar := s.pc, mstate := .preFetch, micro := 1 }
  | moves (hm : s.micro = 1) : FetchMoves s { s with ir := s.mbr, top := .decode, micro := 0 }

theorem fetchMicrostep_moves {s t : State} (h : fetchMicrostep s = .done t) : s.FetchMoves t := by
  obtain hm | hm | hm : s.micro = 0 ∨ s.micro = 1 ∨ 2 ≤ s.micro := by omega
  · rw [fetchMicrostep_request hm] at h
    split at h
    · next hb => cases h; exact .stalls hm hb
    · cases h; exact .requests hm
  · rw [fetchMicrostep_move hm] at h
    cases h
    exact .moves hm
  · rw [fetchMicrostep] at h
    split at h
    case h_1 hm' => omega
    case h_2 hm' => omega
    case h_3 => cases h

/-- What a microstep of DECODE can answer (R74, R78 to R80). -/
inductive State.DecodeMoves (op : BitVec 6) (f : Fields) (s : State) : State → Prop
  | immediate (hm : s.micro = 0) (himm : op = Config.opcodeMap .AIR ∨ op = Config.opcodeMap .SIR) :
      DecodeMoves op f s { s with dec := some ⟨op, f, .none⟩, ea := none, top := .execute, micro := 0 }
  | direct (hm : s.micro = 0) (himm : ¬(op = Config.opcodeMap .AIR ∨ op = Config.opcodeMap .SIR))
      (hmode : eaMode f = .direct) :
      DecodeMoves op f s
        { s with dec := some ⟨op, f, .direct⟩, ea := some f.addr.toNat, top := .execute, micro := 0 }
  | latches (hm : s.micro = 0) (himm : ¬(op = Config.opcodeMap .AIR ∨ op = Config.opcodeMap .SIR))
      (hmode : eaMode f ≠ .direct) : DecodeMoves op f s { s with dec := some ⟨op, f, eaMode f⟩, micro := 1 }
  | computes {d : Decoded} (hm : s.micro = 1) (hd : s.dec = some d) (hmode : d.mode = .registerIndirect) :
      DecodeMoves op f s { s with ea := some (s.baseAddress d.fields), top := .execute, micro := 0 }
  | stalls (hm : s.micro = 1) (hb : s.mstate.busy = true) : DecodeMoves op f s s
  | reads {d : Decoded} {v : Addr} (hm : s.micro = 1) (hd : s.dec = some d)
      (hmode : d.mode = .indexed ∨ d.mode = .indexedOffset) :
      DecodeMoves op f s { s with mar := v, mstate := .preFetch, micro := 2 }
  | takes {d : Decoded} (hm : s.micro = 2) (hd : s.dec = some d)
      (hmode : d.mode = .indexed ∨ d.mode = .indexedOffset) :
      DecodeMoves op f s { s with ea := some s.mbr.toNat, top := .execute, micro := 0 }

theorem decodeStart_moves {op : BitVec 6} {f : Fields} {s : State} (hm : s.micro = 0) :
    s.DecodeMoves op f (decodeStart op f s) := by
  by_cases himm : op = Config.opcodeMap .AIR ∨ op = Config.opcodeMap .SIR
  · rw [decodeStart_of_immediate himm]
    exact .immediate hm himm
  · by_cases hmode : eaMode f = .direct
    · rw [decodeStart_of_direct himm hmode]
      exact .direct hm himm hmode
    · rw [decodeStart_goes_on himm hmode hm]
      exact .latches hm himm hmode

theorem decodeMicrostep_moves {op : BitVec 6} {f : Fields} {s t : State} (h : decodeMicrostep op f s = .done t) :
    s.DecodeMoves op f t := by
  have hrule : s.micro = 0 ∨
      ∃ d, s.dec = some d ∧
        (s.micro = 1 ∧ d.mode = .registerIndirect ∨ s.micro = 1 ∧ (d.mode = .indexed ∨ d.mode = .indexedOffset) ∨
          s.micro = 2 ∧ (d.mode = .indexed ∨ d.mode = .indexedOffset)) := by
    rw [decodeMicrostep] at h
    repeat' split at h
    all_goals simp_all
  obtain hm | ⟨d, hd, ⟨hm, hmode⟩ | ⟨hm, hmode⟩ | ⟨hm, hmode⟩⟩ := hrule
  · rw [decodeMicrostep_start hm] at h
    cases h
    exact decodeStart_moves hm
  · rw [decodeMicrostep_registerIndirect hm hd hmode] at h
    cases h
    exact .computes hm hd hmode
  · rw [decodeMicrostep_request hm hd hmode] at h
    split at h
    · next hb => cases h; exact .stalls hm hb
    · obtain ⟨v, -, hv⟩ := orRaise_done h
      cases hv
      exact .reads hm hd hmode
  · rw [decodeMicrostep_take hm hd hmode] at h
    cases h
    exact .takes hm hd hmode

/-- A word with a microsequence is an instruction's, and the microstep is that instruction's. -/
theorem wordMicrostep_moves {w : Word} {s t : State} (h : wordMicrostep w s = .done t) :
    ∃ i, decode w = .ok i ∧ s.ExecuteMoves i.mnemonic t := by
  rw [wordMicrostep] at h
  split at h
  · next i hi => exact ⟨i, hi, (ensures_iff _ _).1 (executeMicrostep_moves i s) t h⟩
  · cases h

/-! ## The control unit that runs one word -/

/-- The control unit that a step gives the ticks of a word. -/
def wordControlUnit (w : Word) : State → PhaseResult :=
  instructionControlUnit (opcodeField w) (fieldsOf w) (wordMicrostep w)

section

variable {s : State} {w : Word}

theorem wordControlUnit_of_fetch (ht : s.top = .fetch) : wordControlUnit w s = fetchMicrostep s := by
  rw [wordControlUnit, instructionControlUnit, ht]

theorem wordControlUnit_of_decode (ht : s.top = .decode) :
    wordControlUnit w s = decodeMicrostep (opcodeField w) (fieldsOf w) s := by
  rw [wordControlUnit, instructionControlUnit, ht]

theorem wordControlUnit_of_execute (ht : s.top = .execute) : wordControlUnit w s = wordMicrostep w s := by
  rw [wordControlUnit, instructionControlUnit, ht]

/-- The part of a step after the fetch runs the current word. -/
theorem runCurrent_eq_toEnd (s : State) : runCurrent s = toEnd (tickWith (wordControlUnit s.currentWord)) maxTicks s := by
  cases hdec : decode s.currentWord with
  | ok i =>
    obtain ⟨hop, hf⟩ := (decode_eq_ok_iff _ i).1 hdec
    have hmicro : wordMicrostep s.currentWord = executeMicrostep i := funext fun _ => wordMicrostep_of_decode hdec
    rw [runCurrent_of_decode hdec, exec_eq_runInstruction, runInstruction, wordControlUnit, hmicro, hop, hf]
  | error e =>
    obtain ⟨-, rfl⟩ := (decode_eq_error_iff _ e).1 hdec
    have hmicro : wordMicrostep s.currentWord = unhandledMicrostep (opcodeField s.currentWord) :=
      funext fun _ => by rw [wordMicrostep, hdec]
    rw [runCurrent, hdec, wordControlUnit, hmicro]
    rfl

/-- A tick depends on the control unit only through its answer in the state of the tick. -/
theorem tickWith_congr {cu cu' : State → PhaseResult} (h : cu s = cu' s) : tickWith cu s = tickWith cu' s := by
  rw [tickWith, tickWith, h]

/-- The machine's control unit runs some word, or stands where no rule is. -/
theorem controlUnitPhase_cases (s : State) :
    (∃ w, controlUnitPhase s = wordControlUnit w s) ∨ controlUnitPhase s = .noRule := by
  cases ht : s.top with
  | fetch => exact .inl ⟨0, (controlUnitPhase_of_fetch ht).trans (wordControlUnit_of_fetch ht).symm⟩
  | decode => exact .inl ⟨s.ir, (controlUnitPhase_of_decode ht).trans (wordControlUnit_of_decode ht).symm⟩
  | execute =>
    cases hd : s.dec with
    | none =>
      right
      rw [controlUnitPhase, ht]
      simp only [hd]
    | some d => exact .inl ⟨_, (controlUnitPhase_of_execute ht hd).trans (wordControlUnit_of_execute ht).symm⟩

end

/-! ## The ticks left to the end of an instruction -/

/-- A bound on the ticks to the end of the instruction from a place of the control unit: the microsteps of the longest
instruction, and one tick for the stall that the memory unit's state can still cause (70_reset_and_hazards.md R148, R151). -/
def ticksLeftAt : TopState → Nat → MemState → Nat
  | .fetch, 0, m => 11 + m.busy.toNat
  | .fetch, _ + 1, _ => 10
  | .decode, 0, m => 9 + m.afterPhase.busy.toNat
  | .decode, 1, m => 8 + m.busy.toNat
  | .decode, _ + 2, m => 7 + m.afterPhase.busy.toNat
  | .execute, 0, m => 6 + m.busy.toNat
  | .execute, n + 1, _ => 1 + (4 - n)

def State.ticksLeft (s : State) : Nat := ticksLeftAt s.top s.micro s.mstate

theorem ticksLeft_bounds (s : State) : 1 ≤ s.ticksLeft ∧ s.ticksLeft ≤ maxTicks := by
  have hb := s.mstate.busy.toNat_lt
  have ha := s.mstate.afterPhase.busy.toNat_lt
  unfold State.ticksLeft ticksLeftAt maxTicks
  split <;> omega

theorem busy_afterPhase_of_busy {m : MemState} (h : m.busy = true) : m.afterPhase.busy = false := by
  obtain rfl | rfl := (busy_eq_true_iff m).1 h <;> rfl

@[simp] theorem busy_afterPhase_afterPhase (m : MemState) : m.afterPhase.afterPhase.busy = false := by cases m <;> rfl

section

variable {s t : State}

theorem fetchMoves_ticksLeft (ht : s.top = .fetch) (h : s.FetchMoves t) :
    ticksLeftAt t.top t.micro t.mstate.afterPhase < s.ticksLeft := by
  cases h with
  | stalls hm hb => simp [State.ticksLeft, ticksLeftAt, ht, hm, hb, busy_afterPhase_of_busy hb]
  | requests hm =>
    simp only [State.ticksLeft, ticksLeftAt, ht, hm]
    omega
  | moves hm => simp [State.ticksLeft, ticksLeftAt, ht, hm]

theorem decodeMoves_ticksLeft {op : BitVec 6} {f : Fields} (ht : s.top = .decode) (h : s.DecodeMoves op f t) :
    t.top ≠ .fetch ∧ ticksLeftAt t.top t.micro t.mstate.afterPhase < s.ticksLeft := by
  have hb := s.mstate.afterPhase.busy.toNat_lt
  cases h with
  | immediate hm | direct hm | latches hm | computes hm | takes hm =>
    simp only [State.ticksLeft, ticksLeftAt, ht, hm]
    exact ⟨by decide, by omega⟩
  | stalls hm hb => simp [State.ticksLeft, ticksLeftAt, ht, hm, hb, busy_afterPhase_of_busy hb]
  | reads hm =>
    simp only [State.ticksLeft, ticksLeftAt, ht, hm]
    exact ⟨by decide, by simp [MemState.afterPhase, MemState.busy]; omega⟩

theorem executeMicrosteps_le (m : Mnemonic) : executeMicrosteps m ≤ 6 := by cases m <;> decide

theorem ticksLeftAt_execute_succ (n : Nat) (m : MemState) : ticksLeftAt .execute (n + 1) m = 1 + (4 - n) := rfl

theorem ticksLeft_execute_ge (ht : s.top = .execute) : 1 + (5 - s.micro) ≤ s.ticksLeft := by
  rw [State.ticksLeft, ht]
  cases s.micro with
  | zero => exact Nat.le_add_right 6 _
  | succ n => rw [ticksLeftAt_execute_succ]; omega

theorem executeMoves_ticksLeft {m : Mnemonic} (ht : s.top = .execute) (h : s.ExecuteMoves m t) :
    t.halted = true ∨ t.AtBoundary ∨
      (t.top ≠ .fetch ∧ ticksLeftAt t.top t.micro t.mstate.afterPhase < s.ticksLeft) := by
  cases h with
  | stalls hm hb =>
    simp [State.ticksLeft, ticksLeftAt, ht, hm, hb, busy_afterPhase_of_busy hb]
  | goesOn h =>
    have hmore := h.more.trans_le (executeMicrosteps_le m)
    have hge := ticksLeft_execute_ge ht
    rw [h.micro] at hmore
    rw [h.top, h.micro, ht, ticksLeftAt_execute_succ]
    exact .inr (.inr ⟨by decide, by omega⟩)
  | finishes h => exact .inr (.inl h.boundary)
  | halts => exact .inl rfl

/-- A tick ends the instruction, at a boundary or with the run's end, or it lowers `ticksLeft`. -/
def RunsDown (tickf : State → Host.Outcome State Fault Refusal) : Prop :=
  ∀ s t, tickf s = .next t →
    (instructionEnded s t = true ∧ (t.stopped = true ∨ t.AtBoundary)) ∨
      (instructionEnded s t = false ∧ t.ticksLeft < s.ticksLeft)

theorem instructionEnded_of_stopped (h : t.stopped = true) : instructionEnded s t = true := by
  rw [instructionEnded, h, Bool.true_or]

theorem instructionEnded_of_boundary (hs : s.top ≠ .fetch) (ht : t.top = .fetch) : instructionEnded s t = true := by
  simp [instructionEnded, hs, ht]

theorem not_instructionEnded (hrun : t.stopped = false) (h : t.top = .fetch → s.top = .fetch) :
    instructionEnded s t = false := by
  simp only [instructionEnded, hrun, Bool.false_or, Bool.and_eq_false_iff, decide_eq_false_iff_not, not_not]
  by_cases ht : t.top = .fetch
  · exact .inl (h ht)
  · exact .inr ht

/-- The ticks of any word run down. -/
theorem runsDown_word (w : Word) : RunsDown (tickWith (wordControlUnit w)) := by
  intro s t h
  cases hstop : t.stopped with
  | true => exact .inl ⟨instructionEnded_of_stopped hstop, .inl rfl⟩
  | false =>
    obtain ⟨s1, hcu, hsame, hmstate⟩ := tickWith_next_running h hstop
    have hleft : t.ticksLeft = ticksLeftAt s1.top s1.micro s1.mstate.afterPhase := by
      rw [State.ticksLeft, hsame.top, hsame.micro, hmstate]
    have hlower : (s1.top = .fetch → s.top = .fetch) →
        ticksLeftAt s1.top s1.micro s1.mstate.afterPhase < s.ticksLeft →
        instructionEnded s t = false ∧ t.ticksLeft < s.ticksLeft :=
      fun htop hlt => ⟨not_instructionEnded hstop (by rwa [hsame.top]), by rwa [hleft]⟩
    cases htop : s.top with
    | fetch =>
      rw [wordControlUnit_of_fetch htop] at hcu
      exact .inr (hlower (fun _ => htop) (fetchMoves_ticksLeft htop (fetchMicrostep_moves hcu)))
    | decode =>
      rw [wordControlUnit_of_decode htop] at hcu
      obtain ⟨hne, hlt⟩ := decodeMoves_ticksLeft htop (decodeMicrostep_moves hcu)
      exact .inr (hlower (fun heq => absurd heq hne) hlt)
    | execute =>
      rw [wordControlUnit_of_execute htop] at hcu
      obtain ⟨i, -, hmoves⟩ := wordMicrostep_moves hcu
      obtain hhalt | ⟨hfetch, hmicro⟩ | ⟨hne, hlt⟩ := executeMoves_ticksLeft htop hmoves
      · rw [← hsame.halted] at hhalt
        exact absurd (((stopped_eq_false_iff t).1 hstop).1.symm.trans hhalt) (by decide)
      · exact .inl ⟨instructionEnded_of_boundary (by rw [htop]; decide) (hsame.top.trans hfetch),
          .inr ⟨hsame.top.trans hfetch, hsame.micro.trans hmicro⟩⟩
      · exact .inr (hlower (fun heq => absurd heq hne) hlt)

/-- The machine's ticks run down. -/
theorem runsDown_tick : RunsDown tick := by
  intro s t h
  obtain ⟨w, hw⟩ | hnone := controlUnitPhase_cases s
  · exact runsDown_word w s t ((tickWith_congr hw).symm.trans h)
  · cases hstop : s.stopped with
    | true =>
      rw [tick_of_stopped hstop] at h
      cases h
      exact .inl ⟨instructionEnded_of_stopped hstop, .inl hstop⟩
    | false => simp [tick, tickWith, hstop, hnone, PhaseResult.andThen] at h

end

/-! ## The bound on ticks is never reached -/

section

variable {tickf : State → Host.Outcome State Fault Refusal}

/-- With a bound that is large enough the bound makes no difference. -/
theorem toEnd_bound (h : RunsDown tickf) (n k : Nat) (s : State) (hn : s.ticksLeft ≤ n) (hk : s.ticksLeft ≤ k) :
    toEnd tickf n s = toEnd tickf k s := by
  induction n generalizing k s with
  | zero => exact absurd hn (Nat.not_le.2 (ticksLeft_bounds s).1)
  | succ n ih =>
    cases k with
    | zero => exact absurd hk (Nat.not_le.2 (ticksLeft_bounds s).1)
    | succ k =>
      rw [toEnd, toEnd]
      cases ht : tickf s with
      | fault r => rfl
      | refused r => rfl
      | next t =>
        obtain ⟨hend, -⟩ | ⟨hend, hlt⟩ := h s t ht
        · simp only [hend, if_true]
        · simp only [hend]
          exact ih k t (by omega) (by omega)

/-- With a bound that is large enough the ticks stop at a boundary or at the run's end. -/
theorem toEnd_reaches_end (h : RunsDown tickf) (n : Nat) {s t : State} (hn : s.ticksLeft ≤ n)
    (ht : toEnd tickf n s = .next t) : t.stopped = true ∨ t.AtBoundary := by
  induction n generalizing s with
  | zero => exact absurd hn (Nat.not_le.2 (ticksLeft_bounds s).1)
  | succ n ih =>
    rw [toEnd] at ht
    cases hu : tickf s with
    | fault r => simp [hu] at ht
    | refused r => simp [hu] at ht
    | next u =>
      obtain ⟨hend, hstop⟩ | ⟨hend, hlt⟩ := h s u hu
      · simp only [hu, hend, if_true] at ht
        cases ht
        exact hstop
      · simp only [hu, hend] at ht
        exact ih (by omega) ht

end

theorem toEnd_of_stopped {s : State} {n : Nat} (h : s.stopped = true) : toEnd tick (n + 1) s = .next s :=
  toEnd_ends (tick_of_stopped h) (instructionEnded_of_stopped h)

/-- The ticks to the end are the first tick and, unless it ended the instruction, the ticks to the end from there. -/
theorem tickToEnd_of_tick {s t : State} (h : tick s = .next t) :
    tickToEnd s = if instructionEnded s t then .next t else tickToEnd t := by
  rw [tickToEnd, maxTicks, toEnd, h]
  obtain ⟨hend, -⟩ | ⟨hend, hlt⟩ := runsDown_tick s t h
  · simp only [hend, if_true]
  · have hs := (ticksLeft_bounds s).2
    simp only [hend]
    exact toEnd_bound runsDown_tick 11 maxTicks t (by rw [maxTicks] at hs; omega) (ticksLeft_bounds t).2

/-! ## The word of an instruction while it runs -/

section

variable {s t : State}

theorem State.SameControl.latchesAgree (h : s.SameControl t) (hl : s.LatchesAgree) : t.LatchesAgree := by
  rw [State.LatchesAgree, h.dec, h.top, h.micro]
  exact hl

theorem State.SameControl.currentWord (h : s.SameControl t) : t.currentWord = s.currentWord := by
  rw [State.currentWord, State.currentWord, h.dec, h.ir]

theorem currentWord_of_dec {d : Decoded} (h : s.dec = some d) : s.currentWord = packWord d.opcode d.fields := by
  rw [State.currentWord, h]

theorem currentWord_of_no_dec (h : s.dec = none) : s.currentWord = s.ir := by
  rw [State.currentWord, h]

theorem latchesAgree_of_dec {d : Decoded} (h : s.dec = some d)
    (hplace : ¬(s.top = .fetch ∨ (s.top = .decode ∧ s.micro = 0))) : s.LatchesAgree := by
  rw [State.LatchesAgree, h]
  exact iff_of_false (by simp) hplace

/-- The microsteps of DECODE after µ0 read the latch. -/
theorem decodeMicrostep_of_latched (op op' : BitVec 6) (f f' : Fields) (hm : s.micro ≠ 0) :
    decodeMicrostep op f s = decodeMicrostep op' f' s := by
  rw [decodeMicrostep, decodeMicrostep]
  split
  · next h0 => exact absurd h0 hm
  all_goals rfl

/-- Past the fetch the machine's control unit is the one that runs the current word. -/
theorem controlUnitPhase_eq_word (hl : s.LatchesAgree) (ht : s.top ≠ .fetch) :
    controlUnitPhase s = wordControlUnit s.currentWord s := by
  cases htop : s.top with
  | fetch => exact absurd htop ht
  | decode =>
    rw [controlUnitPhase_of_decode htop, wordControlUnit_of_decode htop]
    by_cases hm : s.micro = 0
    · rw [currentWord_of_no_dec (hl.2 (.inr ⟨htop, hm⟩))]
    · exact decodeMicrostep_of_latched _ _ _ _ hm
  | execute =>
    cases hd : s.dec with
    | none => simp [State.LatchesAgree, hd, htop] at hl
    | some d =>
      rw [controlUnitPhase_of_execute htop hd, wordControlUnit_of_execute htop, currentWord_of_dec hd]

theorem decodeMoves_keep_word (htop : s.top = .decode) (hl : s.LatchesAgree)
    (h : s.DecodeMoves (opcodeField s.ir) (fieldsOf s.ir) t) :
    t.LatchesAgree ∧ t.currentWord = s.currentWord := by
  have hlatch : s.micro = 0 → ∀ {u : State} {mode : EaMode},
      u.dec = some ⟨opcodeField s.ir, fieldsOf s.ir, mode⟩ → u.currentWord = s.currentWord := fun hm u mode hd => by
    rw [currentWord_of_dec hd, currentWord_of_no_dec (hl.2 (.inr ⟨htop, hm⟩))]
    exact packWord_opcodeField_fieldsOf s.ir
  cases h with
  | immediate hm => exact ⟨latchesAgree_of_dec rfl (by simp), hlatch hm rfl⟩
  | direct hm => exact ⟨latchesAgree_of_dec rfl (by simp), hlatch hm rfl⟩
  | latches hm => exact ⟨latchesAgree_of_dec rfl (by simp [htop]), hlatch hm rfl⟩
  | computes hm hd => exact ⟨latchesAgree_of_dec hd (by simp), rfl⟩
  | stalls => exact ⟨hl, rfl⟩
  | reads hm hd => exact ⟨latchesAgree_of_dec hd (by simp [htop]), rfl⟩
  | takes hm hd => exact ⟨latchesAgree_of_dec hd (by simp), rfl⟩

theorem executeMoves_keep_word {m : Mnemonic} (htop : s.top = .execute) (hl : s.LatchesAgree)
    (h : s.ExecuteMoves m t) (hne : t.top ≠ .fetch) : t.LatchesAgree ∧ t.currentWord = s.currentWord := by
  cases hd : s.dec with
  | none => simp [State.LatchesAgree, hd, htop] at hl
  | some d =>
    cases h with
    | stalls => exact ⟨hl, rfl⟩
    | goesOn h =>
      have hd' := h.dec.trans hd
      exact ⟨latchesAgree_of_dec hd' (by simp [h.top, htop]),
        (currentWord_of_dec hd').trans (currentWord_of_dec hd).symm⟩
    | finishes h => exact absurd h.boundary.1 hne
    | halts => exact ⟨hl, rfl⟩

/-- A tick inside an instruction keeps the agreement of the latch and the word that runs. -/
theorem tick_keeps_word (hl : s.LatchesAgree) (htop : s.top ≠ .fetch) (h : tick s = .next t)
    (hend : instructionEnded s t = false) : t.LatchesAgree ∧ t.top ≠ .fetch ∧ t.currentWord = s.currentWord := by
  simp only [instructionEnded, Bool.or_eq_false_iff, Bool.and_eq_false_iff, decide_eq_false_iff_not, not_not] at hend
  obtain ⟨hstop, hfetch⟩ := hend
  have htop' : t.top ≠ .fetch := hfetch.resolve_left htop
  obtain ⟨s1, hcu, hsame, -⟩ := tickWith_next_running h hstop
  have hkeep : s1.LatchesAgree ∧ s1.currentWord = s.currentWord := by
    cases hs : s.top with
    | fetch => exact absurd hs htop
    | decode =>
      rw [controlUnitPhase_of_decode hs] at hcu
      exact decodeMoves_keep_word hs hl (decodeMicrostep_moves hcu)
    | execute =>
      rw [controlUnitPhase_eq_word hl htop, wordControlUnit_of_execute hs] at hcu
      obtain ⟨i, -, hmoves⟩ := wordMicrostep_moves hcu
      exact executeMoves_keep_word hs hl hmoves (hsame.top ▸ htop')
  exact ⟨hsame.latchesAgree hkeep.1, htop', hsame.currentWord.trans hkeep.2⟩

end

/-- Past the fetch, running the current word is ticking the machine. -/
theorem toEnd_word_eq_tick (n : Nat) (s : State) (hl : s.LatchesAgree) (htop : s.top ≠ .fetch) :
    toEnd (tickWith (wordControlUnit s.currentWord)) n s = toEnd tick n s := by
  induction n generalizing s with
  | zero => rfl
  | succ n ih =>
    have htick : tickWith (wordControlUnit s.currentWord) s = tick s :=
      tickWith_congr (controlUnitPhase_eq_word hl htop).symm
    rw [toEnd, toEnd, htick]
    cases ht : tick s with
    | fault r => rfl
    | refused r => rfl
    | next t =>
      cases hend : instructionEnded s t with
      | true => simp only [hend, if_true]
      | false =>
        obtain ⟨hl', htop', hword⟩ := tick_keeps_word hl htop ht hend
        simp only [← hword, ih t hl' htop', hend]

theorem runCurrent_eq_tickToEnd {s : State} (hl : s.LatchesAgree) (htop : s.top ≠ .fetch) :
    runCurrent s = tickToEnd s :=
  (runCurrent_eq_toEnd s).trans (toEnd_word_eq_tick maxTicks s hl htop)

/-! ## The fetch of a step -/

/-- What a step does with the outcome of its fetch. -/
def afterFetchRun : Host.Outcome State Fault Refusal → Host.Outcome State Fault Refusal
  | .next s => if s.stopped then .next s else runCurrent s
  | .fault r => .fault r
  | .refused r => .refused r

theorem step_eq_afterFetchRun (s : State) : step s = afterFetchRun (fetchTicks maxFetchTicks s) := by
  rw [step, fetchInstruction]
  cases fetchTicks maxFetchTicks s <;> rfl

/-- A bound on the ticks of FETCH that are left: its microsteps, and a stall at µ0. -/
def State.fetchTicksLeft (s : State) : Nat :=
  match s.top, s.micro with
  | .fetch, 0 => 2 + s.mstate.busy.toNat
  | .fetch, _ + 1 => 1
  | _, _ => 0

theorem fetchTicksLeft_le (s : State) : s.fetchTicksLeft ≤ maxFetchTicks := by
  have hb := s.mstate.busy.toNat_lt
  unfold State.fetchTicksLeft maxFetchTicks
  split <;> omega

/-- A tick of FETCH that leaves the machine running has one tick of FETCH less to come, and keeps the latch empty. -/
theorem tick_in_fetch {s t : State} (hl : s.LatchesAgree) (htop : s.top = .fetch) (h : tick s = .next t)
    (hrun : t.stopped = false) : t.LatchesAgree ∧ t.fetchTicksLeft < s.fetchTicksLeft := by
  have hdec : s.dec = none := hl.2 (.inl htop)
  obtain ⟨s1, hcu, hsame, hmstate⟩ := tickWith_next_running h hrun
  rw [controlUnitPhase_of_fetch htop] at hcu
  have hleft : t.fetchTicksLeft < s.fetchTicksLeft ∧ s1.LatchesAgree := by
    rw [State.fetchTicksLeft, State.fetchTicksLeft, hsame.top, hsame.micro, hmstate, htop]
    cases fetchMicrostep_moves hcu with
    | stalls hm hb => exact ⟨by simp [htop, hm, hb, busy_afterPhase_of_busy hb], hl⟩
    | requests hm => exact ⟨by simp [htop, hm]; omega, by simp [State.LatchesAgree, hdec, htop]⟩
    | moves hm => exact ⟨by simp [hm], by simp [State.LatchesAgree, hdec]⟩
  exact ⟨hsame.latchesAgree hleft.2, hleft.1⟩

theorem fetchTicksLeft_pos {s : State} (htop : s.top = .fetch) : 0 < s.fetchTicksLeft := by
  rw [State.fetchTicksLeft, htop]
  cases s.micro with
  | zero => exact Nat.add_pos_left (by decide) _
  | succ n => exact Nat.one_pos

/-- A machine with nothing to fetch runs on from where it stands. -/
theorem afterFetchRun_past_fetch (n : Nat) {s : State} (hl : s.LatchesAgree)
    (h : ¬(s.top = .fetch ∧ s.stopped = false)) : afterFetchRun (fetchTicks n s) = tickToEnd s := by
  cases hstop : s.stopped with
  | true =>
    rw [fetchTicks_stopped hstop, tickToEnd, maxTicks, toEnd_of_stopped hstop]
    exact if_pos hstop
  | false =>
    have htop : s.top ≠ .fetch := fun heq => h ⟨heq, hstop⟩
    rw [fetchTicks_past htop, ← runCurrent_eq_tickToEnd hl htop]
    exact if_neg (by rw [hstop]; decide)

/-- Fetching and then running the word is ticking to the end. -/
theorem afterFetchRun_fetchTicks (n : Nat) (s : State) (hl : s.LatchesAgree) (hn : s.fetchTicksLeft ≤ n) :
    afterFetchRun (fetchTicks n s) = tickToEnd s := by
  induction n generalizing s with
  | zero =>
    refine afterFetchRun_past_fetch 0 hl fun h => ?_
    have hpos := fetchTicksLeft_pos h.1
    omega
  | succ n ih =>
    by_cases hfetch : s.top = .fetch ∧ s.stopped = false
    · have htick : tickWith fetchMicrostep s = tick s := tickWith_congr (controlUnitPhase_of_fetch hfetch.1).symm
      rw [fetchTicks, if_pos hfetch, htick]
      cases ht : tick s with
      | fault r => simp [afterFetchRun, tickToEnd, maxTicks, toEnd, ht]
      | refused r => simp [afterFetchRun, tickToEnd, maxTicks, toEnd, ht]
      | next t =>
        simp only [tickToEnd_of_tick ht]
        cases hrun : t.stopped with
        | true =>
          rw [instructionEnded_of_stopped hrun, fetchTicks_stopped hrun]
          exact if_pos hrun
        | false =>
          obtain ⟨hl', hlt⟩ := tick_in_fetch hl hfetch.1 ht hrun
          rw [not_instructionEnded hrun fun _ => hfetch.1]
          exact ih t hl' (by omega)
    · exact afterFetchRun_past_fetch _ hl hfetch

theorem step_eq_tickToEnd {s : State} (hl : s.LatchesAgree) : step s = tickToEnd s := by
  rw [step_eq_afterFetchRun]
  exact afterFetchRun_fetchTicks maxFetchTicks s hl (fetchTicksLeft_le s)

/-- Whatever state the step begins in, the ticks of its word run down. -/
theorem afterFetchRun_reaches_end {o : Host.Outcome State Fault Refusal} {t : State} (h : afterFetchRun o = .next t) :
    t.stopped = true ∨ t.AtBoundary := by
  cases o with
  | fault r => cases h
  | refused r => cases h
  | next s =>
    rw [afterFetchRun] at h
    split at h
    · next hstop => cases h; exact .inl hstop
    · rw [runCurrent_eq_toEnd] at h
      exact toEnd_reaches_end (runsDown_word _) maxTicks (ticksLeft_bounds s).2 h

/-- Settles O48: by induction on the ticks of the fetch and then of the word, which both run down. -/
theorem stepRunsTheTicksOfOneInstruction : Obligations.StepRunsTheTicksOfOneInstruction := by
  unfold Obligations.StepRunsTheTicksOfOneInstruction
  exact ⟨fun s hl => step_eq_tickToEnd hl,
    fun s t h => afterFetchRun_reaches_end ((step_eq_afterFetchRun s).symm.trans h)⟩

end Sys2Proof.Machine
end

section
/-!
PROOFS. The run invariant (40_cycle.md R73, R84): the places of the control unit that it allows, and what the units must
hold there. The control unit moves from such a place to one where the phases of the same tick bring the units.
-/

namespace Sys2Proof.Machine

open Sys2Proof

/-! ## The legal places -/

/-- The effective address that DECODE leaves for the latched fields: none for AIR and SIR alone. -/
structure Decoded.LegalEa (d : Decoded) (ea : Option Nat) : Prop where
  fits : ∀ x, ea = some x → x < 2 ^ 20
  empty : ea = none → d.opcode = Config.opcodeMap .AIR ∨ d.opcode = Config.opcodeMap .SIR

/-- The places that the run invariant allows, with the memory unit's state and the ALU's stage that belong to each. -/
inductive State.LegalPlace (s : State) : MemState → Nat → Prop
  | fetchStart (ht : s.top = .fetch) (hm : s.micro = 0) (hd : s.dec = none) (he : s.ea = none) : LegalPlace s .none 0
  | fetchMove (ht : s.top = .fetch) (hm : s.micro = 1) (hd : s.dec = none) (he : s.ea = none)
      (hp : s.pc.toNat < 2048) : LegalPlace s .fetch 0
  | decodeStart (ht : s.top = .decode) (hm : s.micro = 0) (hd : s.dec = none) (he : s.ea = none)
      (hp : s.pc.toNat < 2048) : LegalPlace s .none 0
  | decodeLatched {d : Decoded} (ht : s.top = .decode) (hm : s.micro = 1) (hd : s.dec = some d)
      (hon : d.decodesOn = true) (he : s.ea = none) (hp : s.pc.toNat < 2048) : LegalPlace s .none 0
  | decodeRead {d : Decoded} (ht : s.top = .decode) (hm : s.micro = 2) (hd : s.dec = some d)
      (hon : d.decodesOn = true) (hi : d.fields.ibit = true) (he : s.ea = none) (hp : s.pc.toNat < 2048) :
      LegalPlace s .fetch 0
  | execute {d : Decoded} {m : Mnemonic} (ht : s.top = .execute) (hd : s.dec = some d) (hea : d.LegalEa s.ea)
      (hop : mnemonicOf Config.opcodeMap d.opcode = some m) (hm : s.micro < executeMicrosteps m)
      (hp : s.pc.toNat < 2048) : LegalPlace s (memStateAt m s.micro) (aluStageAt m s.micro)
  | unhandled {d : Decoded} (ht : s.top = .execute) (hd : s.dec = some d) (hea : d.LegalEa s.ea)
      (hop : mnemonicOf Config.opcodeMap d.opcode = none) (hm : s.micro = 0) (hp : s.pc.toNat < 2048) :
      LegalPlace s .none 0

theorem legalEa_iff (d : Decoded) (ea : Option Nat) :
    d.LegalEa ea ↔ (match ea with
      | some x => decide (x < 2 ^ 20)
      | none => decide (d.opcode = Config.opcodeMap .AIR) || decide (d.opcode = Config.opcodeMap .SIR)) = true := by
  cases ea with
  | some x => simpa using ⟨fun h => h.fits x rfl, fun h => ⟨fun y hy => Option.some.inj hy ▸ h, nofun⟩⟩
  | none => simpa using ⟨fun h => h.empty rfl, fun h => ⟨nofun, fun _ => h⟩⟩

/-- The control unit is legal when the units hold what belongs to a legal place. -/
theorem controlUnitLegal_iff (s : State) :
    s.controlUnitLegal = true ↔ ∃ n, s.LegalPlace s.mstate n ∧ s.aluAtStage n = true := by
  constructor
  · intro h
    rw [State.controlUnitLegal] at h
    cases ht : s.top with
    | fetch =>
      simp only [ht, Bool.and_eq_true, Bool.or_eq_true, decide_eq_true_eq, Option.isNone_iff_eq_none, inRange_iff] at h
      obtain ⟨⟨⟨hd, he⟩, ha⟩, ⟨hm, hms⟩ | ⟨⟨hm, hms⟩, hp⟩⟩ := h
      · exact ⟨0, hms ▸ .fetchStart ht hm hd he, ha⟩
      · exact ⟨0, hms ▸ .fetchMove ht hm hd he hp, ha⟩
    | decode =>
      simp only [ht, Bool.and_eq_true, Option.isNone_iff_eq_none, inRange_iff] at h
      obtain ⟨⟨⟨he, ha⟩, hp⟩, hlatch⟩ := h
      cases hd : s.dec with
      | none =>
        simp only [hd, Bool.and_eq_true, decide_eq_true_eq] at hlatch
        obtain ⟨hm, hms⟩ := hlatch
        exact ⟨0, hms ▸ .decodeStart ht hm hd he hp, ha⟩
      | some d =>
        simp only [hd, Bool.and_eq_true, Bool.or_eq_true, decide_eq_true_eq] at hlatch
        obtain ⟨hon, ⟨hm, hms⟩ | ⟨⟨hm, hms⟩, hi⟩⟩ := hlatch
        · exact ⟨0, hms ▸ .decodeLatched ht hm hd hon he hp, ha⟩
        · exact ⟨0, hms ▸ .decodeRead ht hm hd hon hi he hp, ha⟩
    | execute =>
      simp only [ht, Bool.and_eq_true, inRange_iff] at h
      obtain ⟨hp, hlatch⟩ := h
      cases hd : s.dec with
      | none => simp [hd] at hlatch
      | some d =>
        simp only [hd, Bool.and_eq_true] at hlatch
        obtain ⟨hea, hunits⟩ := hlatch
        replace hea : d.LegalEa s.ea := (legalEa_iff d s.ea).2 hea
        cases hop : mnemonicOf Config.opcodeMap d.opcode with
        | none =>
          simp only [hop, Bool.and_eq_true, decide_eq_true_eq] at hunits
          obtain ⟨⟨hm, hms⟩, ha⟩ := hunits
          exact ⟨0, hms ▸ .unhandled ht hd hea hop hm hp, ha⟩
        | some m =>
          simp only [hop, Bool.and_eq_true, decide_eq_true_eq] at hunits
          obtain ⟨⟨hm, hms⟩, ha⟩ := hunits
          exact ⟨_, hms ▸ .execute ht hd hea hop hm hp, ha⟩
  · rintro ⟨n, hplace, ha⟩
    generalize hms : s.mstate = ms at hplace
    rw [State.controlUnitLegal]
    cases hplace with
    | fetchStart ht hm hd he => simp [ht, hm, hd, he, ha, hms]
    | fetchMove ht hm hd he hp => simp [ht, hm, hd, he, ha, hms, (inRange_iff _).2 hp]
    | decodeStart ht hm hd he hp => simp [ht, hm, hd, he, ha, hms, (inRange_iff _).2 hp]
    | decodeLatched ht hm hd hon he hp => simp [ht, hm, hd, he, ha, hms, hon, (inRange_iff _).2 hp]
    | decodeRead ht hm hd hon hi he hp => simp [ht, hm, hd, he, ha, hms, hon, hi, (inRange_iff _).2 hp]
    | execute ht hd hea hop hm hp =>
      have hea' := (legalEa_iff _ _).1 hea
      simp only [ht, hd, hop, ha, hms, hm, (inRange_iff _).2 hp, decide_true, Bool.and_true, Bool.true_and]
      exact hea'
    | unhandled ht hd hea hop hm hp =>
      have hea' := (legalEa_iff _ _).1 hea
      simp only [ht, hd, hop, ha, hms, hm, (inRange_iff _).2 hp, decide_true, Bool.and_true, Bool.true_and]
      exact hea'

/-! ## The latched fields -/

/-- The latch of a DECODE that goes on past µ0 holds the mode of its fields, and no opcode of AIR and SIR. -/
theorem decodesOn_iff (d : Decoded) :
    d.decodesOn = true ↔
      d.mode = eaMode d.fields ∧ d.mode ≠ .direct ∧
        ¬(d.opcode = Config.opcodeMap .AIR ∨ d.opcode = Config.opcodeMap .SIR) := by
  simp [Decoded.decodesOn, and_assoc]

theorem ibit_of_decodesOn {d : Decoded} (hon : d.decodesOn = true) (h : d.mode = .indexed ∨ d.mode = .indexedOffset) :
    d.fields.ibit = true := by
  rw [((decodesOn_iff d).1 hon).1, eaMode_eq_indexed_iff, eaMode_eq_indexedOffset_iff] at h
  obtain ⟨hi, -⟩ | ⟨hi, -⟩ := h <;> exact hi

theorem legalEa_some {d : Decoded} {x : Nat} (h : x < 2 ^ 20) : d.LegalEa (some x) :=
  ⟨fun _ hy => Option.some.inj hy ▸ h, nofun⟩

section

variable {s t : State} {ms : MemState} {n : Nat}

theorem State.LegalPlace.latchesAgree (h : s.LegalPlace ms n) : s.LatchesAgree := by
  cases h with
  | fetchStart ht hm hd => simp [State.LatchesAgree, ht, hd]
  | fetchMove ht hm hd => simp [State.LatchesAgree, ht, hd]
  | decodeStart ht hm hd => simp [State.LatchesAgree, ht, hm, hd]
  | decodeLatched ht hm hd | decodeRead ht hm hd => exact latchesAgree_of_dec hd (by simp [ht, hm])
  | execute ht hd | unhandled ht hd => exact latchesAgree_of_dec hd (by simp [ht])

theorem State.LegalPlace.of_sameControl (hc : s.SameControl t) (h : s.LegalPlace ms n) : t.LegalPlace ms n := by
  have hp := hc.pc
  cases h with
  | fetchStart ht hm hd he => exact .fetchStart (hc.top.trans ht) (hc.micro.trans hm) (hc.dec.trans hd) (hc.ea.trans he)
  | fetchMove ht hm hd he h =>
    exact .fetchMove (hc.top.trans ht) (hc.micro.trans hm) (hc.dec.trans hd) (hc.ea.trans he) (by rwa [hp])
  | decodeStart ht hm hd he h =>
    exact .decodeStart (hc.top.trans ht) (hc.micro.trans hm) (hc.dec.trans hd) (hc.ea.trans he) (by rwa [hp])
  | decodeLatched ht hm hd hon he h =>
    exact .decodeLatched (hc.top.trans ht) (hc.micro.trans hm) (hc.dec.trans hd) hon (hc.ea.trans he) (by rwa [hp])
  | decodeRead ht hm hd hon hi he h =>
    exact .decodeRead (hc.top.trans ht) (hc.micro.trans hm) (hc.dec.trans hd) hon hi (hc.ea.trans he) (by rwa [hp])
  | execute ht hd hea hop hm h =>
    rw [← hc.micro]
    exact .execute (hc.top.trans ht) (hc.dec.trans hd) (hc.ea ▸ hea) hop (by rwa [hc.micro]) (by rwa [hp])
  | unhandled ht hd hea hop hm h =>
    exact .unhandled (hc.top.trans ht) (hc.dec.trans hd) (hc.ea ▸ hea) hop (hc.micro.trans hm) (by rwa [hp])

theorem executeMicrosteps_pos (m : Mnemonic) : 0 < executeMicrosteps m := by cases m <;> decide

/-- EXECUTE µ0 is legal for every opcode, with both units idle. -/
theorem legalPlace_execute_start {d : Decoded} (ht : s.top = .execute) (hm : s.micro = 0) (hd : s.dec = some d)
    (hea : d.LegalEa s.ea) (hp : s.pc.toNat < 2048) : s.LegalPlace .none 0 := by
  cases hop : mnemonicOf Config.opcodeMap d.opcode with
  | none => exact .unhandled ht hd hea hop hm hp
  | some m =>
    have hplace := State.LegalPlace.execute ht hd hea hop (by rw [hm]; exact executeMicrosteps_pos m) hp
    rwa [hm, memStateAt_zero, aluStageAt_zero] at hplace

/-! ## Moves of the control unit -/

/-- What the control unit leaves to the phases of its tick: they bring the units to what belongs to a legal place, where
the control unit stands if a pending read finds its cell. -/
structure State.PhasesReach (s : State) (ms : MemState) (n : Nat) : Prop where
  mem : s.mstate.afterPhase = ms
  alu : s.AluReaches n
  place : (s.mstate = .preFetch → s.mar.toNat < 2048) → s.LegalPlace ms n
  nextPC : s.nextPC = none
  fault : s.fault = none
  /-- A run that halts leaves the memory unit nothing that could fault. -/
  halted : s.halted = true → s.mstate = .none

/-- A running machine, between ticks, at a legal place. -/
structure State.RunsLegally (s : State) (n : Nat) : Prop where
  place : s.LegalPlace s.mstate n
  alu : s.aluAtStage n = true
  nextPC : s.nextPC = none
  halted : s.halted = false
  fault : s.fault = none

theorem afterPhase_memStateAt (m : Mnemonic) (k : Nat) : (memStateAt m k).afterPhase = .none := by
  by_cases hk : k = 1
  · subst hk
    cases m <;> rfl
  · simp [memStateAt, hk, MemState.afterPhase]

/-- At its last microstep an instruction has the ALU idle or a result to be read. -/
theorem aluStageAt_last (m : Mnemonic) {k : Nat} (h : k + 1 = executeMicrosteps m) :
    aluStageAt m k = 0 ∨ aluStageAt m k = 4 := by
  have hk : k = executeMicrosteps m - 1 := by omega
  subst hk
  cases m <;> decide

/-- A move of FETCH or DECODE leaves the idle ALU and the run's end alone. -/
theorem State.RunsLegally.reaches (h : s.RunsLegally 0) (hmem : t.mstate.afterPhase = ms)
    (hplace : (t.mstate = .preFetch → t.mar.toNat < 2048) → t.LegalPlace ms 0)
    (halu : s.SameAlu t := by constructor <;> rfl) (hnext : t.nextPC = s.nextPC := by rfl)
    (hfault : t.fault = s.fault := by rfl) (hhalted : t.halted = s.halted := by rfl) : ∃ ms k, t.PhasesReach ms k :=
  ⟨ms, 0, hmem, aluReaches_of_idle h.alu halu, hplace, hnext.trans h.nextPC, hfault.trans h.fault,
    fun hh => by simp [hhalted, h.halted] at hh⟩

theorem fetchMoves_reach (h : s.RunsLegally n) (htop : s.top = .fetch) (hmove : s.FetchMoves t) :
    ∃ ms k, t.PhasesReach ms k := by
  have hplace := h.place
  generalize hms : s.mstate = ms at hplace
  cases hplace with
  | fetchStart ht hm hd he =>
    cases hmove with
    | stalls _ hb => simp [hms, MemState.busy] at hb
    | requests => exact h.reaches rfl fun hp => .fetchMove ht rfl hd he (hp rfl)
    | moves hm' => omega
  | fetchMove ht hm hd he hp =>
    cases hmove with
    | stalls hm' => omega
    | requests hm' => omega
    | moves => exact h.reaches (by rw [hms]; rfl) fun _ => .decodeStart rfl rfl hd he hp
  | _ => simp_all

/-- DECODE leaves the ALU idle and requests nothing but its read. -/
theorem decodeMoves_reach {op : BitVec 6} {f : Fields} (h : s.RunsLegally n) (htop : s.top = .decode)
    (hmove : s.DecodeMoves op f t) : ∃ ms k, t.PhasesReach ms k := by
  have hplace := h.place
  have hbase : ∀ d : Decoded, s.baseAddress d.fields < 2 ^ 20 := fun d => by
    have := baseAddress_lt s d.fields
    omega
  generalize hms : s.mstate = ms at hplace
  cases hplace with
  | decodeStart ht hm hd he hp =>
    have hafter : s.mstate.afterPhase = .none := by rw [hms]; rfl
    cases hmove with
    | immediate _ himm =>
      exact h.reaches hafter fun _ => legalPlace_execute_start rfl rfl rfl ⟨nofun, fun _ => himm⟩ hp
    | direct =>
      have haddr : f.addr.toNat < 2 ^ 20 := f.addr.isLt.trans (by decide)
      exact h.reaches hafter fun _ => legalPlace_execute_start rfl rfl rfl (legalEa_some haddr) hp
    | latches _ himm hmode =>
      exact h.reaches hafter fun _ => .decodeLatched ht rfl rfl ((decodesOn_iff _).2 ⟨rfl, hmode, himm⟩) he hp
    | _ => omega
  | decodeLatched ht hm hd hon he hp =>
    have hafter : s.mstate.afterPhase = .none := by rw [hms]; rfl
    cases hmove with
    | computes _ hd' =>
      exact h.reaches hafter fun _ => legalPlace_execute_start rfl rfl hd (legalEa_some (hbase _)) hp
    | stalls _ hb => simp [hms, MemState.busy] at hb
    | reads _ hd' hmode =>
      cases hd.symm.trans hd'
      exact h.reaches rfl fun _ => .decodeRead ht rfl hd hon (ibit_of_decodesOn hon hmode) he hp
    | _ => omega
  | decodeRead ht hm hd hon hi he hp =>
    have hafter : s.mstate.afterPhase = .none := by rw [hms]; rfl
    cases hmove with
    | takes _ hd' =>
      exact h.reaches hafter fun _ => legalPlace_execute_start rfl rfl hd (legalEa_some s.mbr.isLt) hp
    | _ => omega
  | _ => simp_all

theorem executeMoves_reach {d : Decoded} {m : Mnemonic} (h : s.RunsLegally n) (htop : s.top = .execute)
    (hd : s.dec = some d) (hop : mnemonicOf Config.opcodeMap d.opcode = some m) (hmove : s.ExecuteMoves m t) :
    ∃ ms k, t.PhasesReach ms k := by
  obtain ⟨hplace, halu, hnext, hhalted, hfault⟩ := h
  generalize hms : s.mstate = ms at hplace
  cases hplace with
  | execute _ hd' hea hop' hm hp =>
    cases hd.symm.trans hd'
    cases hop.symm.trans hop'
    cases hmove with
    | stalls hm' hb => simp [hms, hm', memStateAt_zero, MemState.busy] at hb
    | goesOn hgo =>
      exact ⟨_, _, hgo.mem hms, hgo.alu halu,
        fun _ => .execute (hgo.top.trans htop) (hgo.dec.trans hd) (hgo.ea ▸ hea) hop hgo.more (by rwa [hgo.pc]),
        hgo.nextPC.trans hnext, hgo.fault.trans hfault, by simp [hgo.halted, hhalted]⟩
    | finishes hfin =>
      have hidle : t.AluReaches 0 := by
        obtain hstage | hstage := aluStageAt_last m hfin.last
        · exact aluReaches_of_idle (hstage ▸ halu) hfin.alu
        · exact aluReaches_of_finished (hstage ▸ halu) hfin.alu
      exact ⟨.none, 0, by rw [hfin.mem, hms, afterPhase_memStateAt], hidle,
        fun _ => .fetchStart hfin.boundary.1 hfin.boundary.2 hfin.dec hfin.ea, hfin.nextPC, hfin.fault.trans hfault,
        by simp [hfin.halted, hhalted]⟩
    | halts hm' hhlt =>
      have hnone : s.mstate = .none := by rw [hms, hm', memStateAt_zero]
      rw [hm', aluStageAt_zero] at halu
      exact ⟨.none, 0, congrArg MemState.afterPhase hnone, aluReaches_of_idle halu (by constructor <;> rfl),
        fun _ => legalPlace_execute_start htop hm' hd hea hp, hnext, hfault, fun _ => hnone⟩
  | unhandled _ hd' _ hop' =>
    cases hd.symm.trans hd'
    cases hop.symm.trans hop'
  | _ => simp_all

/-- A microstep of a running machine at a legal place. -/
theorem controlUnitPhase_reach (h : s.RunsLegally n) (hcu : controlUnitPhase s = .done t) :
    ∃ ms k, t.PhasesReach ms k := by
  cases htop : s.top with
  | fetch =>
    rw [controlUnitPhase_of_fetch htop] at hcu
    exact fetchMoves_reach h htop (fetchMicrostep_moves hcu)
  | decode =>
    rw [controlUnitPhase_of_decode htop] at hcu
    exact decodeMoves_reach h htop (decodeMicrostep_moves hcu)
  | execute =>
    cases hd : s.dec with
    | none =>
      rw [controlUnitPhase, htop] at hcu
      simp [hd] at hcu
    | some d =>
      rw [controlUnitPhase_of_execute htop hd] at hcu
      obtain ⟨i, hi, hmove⟩ := wordMicrostep_moves hcu
      obtain ⟨hop, -⟩ := (decode_eq_ok_iff _ _).1 hi
      rw [opcodeField_packWord, ← mnemonicOf_eq_some_iff] at hop
      exact executeMoves_reach h htop hd hop hmove

/-! ## The phases of the tick -/

theorem aluAtStage_congr (h : s.SameAlu t) (n : Nat) : t.aluAtStage n = s.aluAtStage n := by
  unfold State.aluAtStage State.AluIdle
  rw [h.astate, h.op1, h.op2, h.ctrl, h.result]

theorem memoryPhase_sameAlu (h : memoryPhase s = .done t) : s.SameAlu t := by
  obtain ⟨-, -, rfl⟩ | ⟨-, -, rfl⟩ | ⟨-, rfl⟩ | ⟨-, rfl⟩ := memoryPhase_done h
  all_goals exact ⟨rfl, rfl, rfl, rfl, rfl⟩

/-- What a run without host requests keeps between ticks, apart from the basic invariant: no pending jump, not halted and
faulted at once, and a legal control unit unless a fault has ended the run. -/
structure State.RunPlace (s : State) : Prop where
  nextPC : s.nextPC = none
  ended : s.halted = true → s.fault = none
  legal : s.fault = none → s.controlUnitLegal = true

theorem runInv_iff (s : State) : s.runInv = true ↔ s.basicInv = true ∧ s.RunPlace := by
  constructor
  · intro h
    simp only [State.runInv, Bool.and_eq_true, Bool.or_eq_true, Bool.not_eq_true', Bool.and_eq_false_iff,
      Option.isNone_iff_eq_none] at h
    obtain ⟨⟨⟨hbasic, hnext⟩, hended⟩, hlegal⟩ := h
    refine ⟨hbasic, hnext, fun hh => ?_, fun hf => ?_⟩
    · simpa [hh] using hended
    · simpa [hf] using hlegal
  · rintro ⟨hbasic, hnext, hended, hlegal⟩
    cases hf : s.fault with
    | none => simp [State.runInv, hbasic, hnext, hf, hlegal hf]
    | some r =>
      have hh : s.halted = false := by
        cases hh : s.halted with
        | false => rfl
        | true => simp [hended hh] at hf
      simp [State.runInv, hbasic, hnext, hf, hh]

theorem runPlace_of_takeFault (k : FaultKind) (ph : TickPhase) (hnext : s.nextPC = none) (hhalted : s.halted = false) :
    (s.takeFault k ph).RunPlace :=
  ⟨hnext, fun h => by simp [hhalted] at h, nofun⟩

theorem runsLegally_of_runPlace (h : s.RunPlace) (hrun : s.stopped = false) : ∃ n, s.RunsLegally n := by
  obtain ⟨hhalted, hfault⟩ := (stopped_eq_false_iff s).1 hrun
  obtain ⟨n, hplace, halu⟩ := (controlUnitLegal_iff s).1 (h.legal hfault)
  exact ⟨n, hplace, halu, h.nextPC, hhalted, hfault⟩

/-- The units' phases after a legal move: they bring the machine to a legal place, or the memory phase takes a fault. -/
theorem unitPhases_runPlace {s1 s2 : State} {ms : MemState} (h : s1.PhasesReach ms n) (h2 : aluPhase s1 = .done s2) :
    (∀ k, memoryPhase s2 = .raise k → (s2.takeFault k .memory).RunPlace) ∧
      ∀ s3, memoryPhase s2 = .done s3 → s3.RunPlace := by
  obtain ⟨hsame, hmstate, hmar⟩ := aluPhase_sameControl h2
  have hnext := hsame.nextPC.trans h.nextPC
  constructor
  · intro k hk
    refine runPlace_of_takeFault k _ hnext ?_
    cases hhalted : s2.halted with
    | false => rfl
    | true =>
      rw [memoryPhase_of_none (hmstate.trans (h.halted (hsame.halted.symm.trans hhalted)))] at hk
      cases hk
  · intro s3 h3
    have hsame3 := memoryPhase_sameControl h3
    have hplace : s1.LegalPlace ms n := by
      refine h.place fun hpre => ?_
      obtain ⟨-, hlt, -⟩ | ⟨hm, -⟩ | ⟨hb, -⟩ | ⟨hm, -⟩ := memoryPhase_done h3
      · rwa [← hmar]
      · simp [hmstate, hpre] at hm
      · simp [hmstate, hpre, MemState.busy] at hb
      · simp [hmstate, hpre] at hm
    have hms : s3.mstate = ms := by rw [memoryPhase_mstate h3, hmstate, h.mem]
    have halu : s3.aluAtStage n = true := by
      obtain ⟨u, hu, hstage⟩ := h.alu
      cases h2.symm.trans hu
      rwa [aluAtStage_congr (memoryPhase_sameAlu h3)]
    have hcontrol := hsame.trans hsame3
    exact ⟨hsame3.nextPC.trans hnext, fun _ => hcontrol.fault.trans h.fault,
      fun _ => (controlUnitLegal_iff s3).2 ⟨n, hms ▸ hplace.of_sameControl hcontrol, halu⟩⟩

theorem tick_keeps_runPlace (h : s.RunPlace) (ht : tick s = .next t) : t.RunPlace := by
  obtain ⟨-, rfl⟩ | ⟨hrun, k, -, rfl⟩ | ⟨hrun, s1, k, h1, h2, rfl⟩ | ⟨hrun, s1, s2, k, h1, h2, h3, rfl⟩ |
    ⟨hrun, s1, s2, h1, h2, h3⟩ := tickWith_next ht
  · exact h
  · exact runPlace_of_takeFault k _ h.nextPC ((stopped_eq_false_iff s).1 hrun).1
  all_goals
    obtain ⟨n, hlegal⟩ := runsLegally_of_runPlace h hrun
    obtain ⟨ms, j, hreach⟩ := controlUnitPhase_reach hlegal h1
  · obtain ⟨u, hu, -⟩ := hreach.alu
    cases h2.symm.trans hu
  · exact (unitPhases_runPlace hreach h2).1 k h3
  · exact (unitPhases_runPlace hreach h2).2 t h3

theorem tick_keeps_runInv (h : s.runInv = true) (ht : tick s = .next t) : t.runInv = true := by
  rw [runInv_iff] at h ⊢
  exact ⟨tick_keeps_basicInv h.1 ht, tick_keeps_runPlace h.2 ht⟩

end

/-- Settles O51: the control unit moves to a legal place, and the phases bring the units to what belongs to it. -/
theorem ticksKeepTheRunInvariant : Obligations.TicksKeepTheRunInvariant := by
  unfold Obligations.TicksKeepTheRunInvariant
  exact fun s t h ht => tick_keeps_runInv h ht

/-- What every tick keeps, the ticks to an instruction's end keep. -/
theorem toEnd_keeps {P : State → Prop} {tickf : State → Host.Outcome State Fault Refusal}
    (hkeep : ∀ s t, P s → tickf s = .next t → P t) (n : Nat) {s t : State} (hs : P s)
    (ht : toEnd tickf n s = .next t) : P t := by
  induction n generalizing s with
  | zero =>
    cases ht
    exact hs
  | succ n ih =>
    rw [toEnd] at ht
    cases hu : tickf s with
    | fault r => simp [hu] at ht
    | refused r => simp [hu] at ht
    | next u =>
      simp only [hu] at ht
      split at ht
      · cases ht
        exact hkeep s _ hs hu
      · exact ih (hkeep s u hs hu) ht

/-- Settles O52: a step is the ticks of one instruction, and every tick keeps the invariant. -/
theorem stepsKeepTheRunInvariant : Obligations.StepsKeepTheRunInvariant := by
  unfold Obligations.StepsKeepTheRunInvariant
  intro s t h _ ht
  cases hstop : s.stopped with
  | true =>
    rw [step_of_stopped hstop] at ht
    cases ht
    exact h
  | false =>
    obtain ⟨n, hlegal⟩ := runsLegally_of_runPlace ((runInv_iff s).1 h).2 hstop
    rw [step_eq_tickToEnd hlegal.place.latchesAgree] at ht
    exact toEnd_keeps (P := fun s => s.runInv = true) (fun _ _ => tick_keeps_runInv) maxTicks h ht

end Sys2Proof.Machine
end

section
/-!
PROOFS. The ticks of an instruction (40_cycle.md R85; 70_reset_and_hazards.md R151): from a legal place every tick that takes
no fault has one tick less to come.
-/

namespace Sys2Proof.Machine

open Sys2Proof

/-- The ticks of the instruction `i` that are to come at a place past its fetch. -/
def ticksDueAt (i : Instr) : TopState → Nat → Nat
  | .fetch, _ => 0
  | .decode, n => decodeTicks i - n + executeMicrosteps i.mnemonic
  | .execute, n => executeMicrosteps i.mnemonic - n

def State.ticksDue (i : Instr) (s : State) : Nat := ticksDueAt i s.top s.micro

section

variable {s t : State} {i : Instr} {n : Nat}

/-! ## The ticks of DECODE by the latched mode (table under R80) -/

theorem opcodeMap_eq_iff (m m' : Mnemonic) : Config.opcodeMap m = Config.opcodeMap m' ↔ m = m' :=
  ⟨opcodeMap_injective, fun h => h ▸ rfl⟩

theorem decodeTicks_of_immediate
    (h : Config.opcodeMap i.mnemonic = Config.opcodeMap .AIR ∨ Config.opcodeMap i.mnemonic = Config.opcodeMap .SIR) :
    decodeTicks i = 1 := by
  rw [opcodeMap_eq_iff, opcodeMap_eq_iff] at h
  rw [decodeTicks, if_pos h]

/-- Of every other instruction the mode of its fields decides. -/
theorem decodeTicks_of_eaMode {k : Nat} {mode : EaMode}
    (himm : ¬(Config.opcodeMap i.mnemonic = Config.opcodeMap .AIR ∨ Config.opcodeMap i.mnemonic = Config.opcodeMap .SIR))
    (hmode : eaMode i.fields = mode)
    (hk : (mode = .direct ∧ k = 1) ∨ (mode = .registerIndirect ∧ k = 2) ∨
      ((mode = .indexed ∨ mode = .indexedOffset) ∧ k = 3)) : decodeTicks i = k := by
  rw [opcodeMap_eq_iff, opcodeMap_eq_iff] at himm
  rw [decodeTicks, if_neg himm, hmode]
  obtain ⟨rfl, rfl⟩ | ⟨rfl, rfl⟩ | ⟨rfl | rfl, rfl⟩ := hk <;> rfl

theorem decodeTicks_pos (i : Instr) : 0 < decodeTicks i := by
  unfold decodeTicks
  repeat' split
  all_goals decide

theorem decodeTicks_le (i : Instr) : decodeTicks i ≤ 3 := by
  unfold decodeTicks
  repeat' split
  all_goals decide

/-- The instruction of the current word has the opcode and the fields of the latch. -/
theorem latch_of_decode {d : Decoded} (hd : s.dec = some d) (hi : decode s.currentWord = .ok i) :
    Config.opcodeMap i.mnemonic = d.opcode ∧ i.fields = d.fields := by
  rw [currentWord_of_dec hd, decode_eq_ok_iff, opcodeField_packWord, fieldsOf_packWord] at hi
  exact hi

theorem decodeTicks_of_registerIndirect {d : Decoded} (hd : s.dec = some d) (hi : decode s.currentWord = .ok i)
    (hon : d.decodesOn = true) (hmode : d.mode = .registerIndirect) : decodeTicks i = 2 := by
  obtain ⟨hop, hf⟩ := latch_of_decode hd hi
  obtain ⟨hlatch, -, himm⟩ := (decodesOn_iff d).1 hon
  exact decodeTicks_of_eaMode (hop ▸ himm) (by rw [hf, ← hlatch]) (.inr (.inl ⟨hmode, rfl⟩))

theorem decodeTicks_of_indirection {d : Decoded} (hd : s.dec = some d) (hi : decode s.currentWord = .ok i)
    (hon : d.decodesOn = true) (hmode : d.mode = .indexed ∨ d.mode = .indexedOffset) : decodeTicks i = 3 := by
  obtain ⟨hop, hf⟩ := latch_of_decode hd hi
  obtain ⟨hlatch, -, himm⟩ := (decodesOn_iff d).1 hon
  exact decodeTicks_of_eaMode (hop ▸ himm) (by rw [hf, ← hlatch]) (.inr (.inr ⟨hmode, rfl⟩))

/-! ## One tick -/

/-- The latch of a legal place in DECODE: empty at µ0, and one whose decode goes on after it. -/
theorem State.LegalPlace.decode_latch {ms : MemState} (h : s.LegalPlace ms n) (htop : s.top = .decode) :
    (s.micro = 0 ∧ s.dec = none) ∨ ∃ d, s.dec = some d ∧ d.decodesOn = true := by
  cases h with
  | decodeStart ht hm hd => exact .inl ⟨hm, hd⟩
  | decodeLatched ht hm hd hon | decodeRead ht hm hd hon => exact .inr ⟨_, hd, hon⟩
  | _ => simp_all

theorem State.LegalPlace.not_busy {ms : MemState} (h : s.LegalPlace ms n)
    (hreq : (s.top = .decode ∧ s.micro = 1) ∨ (s.top = .execute ∧ s.micro = 0)) : ms.busy = false := by
  cases h with
  | fetchStart | decodeStart | decodeLatched | unhandled => rfl
  | fetchMove ht => simp [ht] at hreq
  | decodeRead ht hm => simp [ht, hm] at hreq
  | execute ht hd hea hop hm =>
    have hm0 : s.micro = 0 := by simpa [ht] using hreq
    rw [hm0, memStateAt_zero]
    rfl

theorem decodeMoves_ticksDue (h : s.RunsLegally n) (htop : s.top = .decode) (hi : decode s.currentWord = .ok i)
    (hmove : s.DecodeMoves (opcodeField s.ir) (fieldsOf s.ir) t) :
    t.top ≠ .fetch ∧ t.halted = s.halted ∧ t.ticksDue i + 1 = s.ticksDue i := by
  have hpos := decodeTicks_pos i
  have hstart : s.micro = 0 → Config.opcodeMap i.mnemonic = opcodeField s.ir ∧ i.fields = fieldsOf s.ir := fun hm => by
    rwa [currentWord_of_no_dec (h.place.latchesAgree.2 (.inr ⟨htop, hm⟩)), decode_eq_ok_iff] at hi
  have hlatched : ∀ d, s.micro ≠ 0 → s.dec = some d → d.decodesOn = true := fun d hm hd => by
    obtain ⟨hm0, -⟩ | ⟨d', hd', hon⟩ := h.place.decode_latch htop
    · exact absurd hm0 hm
    · cases hd.symm.trans hd'
      exact hon
  cases hmove with
  | immediate hm himm =>
    have hticks := decodeTicks_of_immediate (by rwa [(hstart hm).1])
    simp only [State.ticksDue, ticksDueAt, htop, hm, hticks]
    exact ⟨nofun, trivial, by omega⟩
  | direct hm himm hmode =>
    obtain ⟨hop, hf⟩ := hstart hm
    have hticks := decodeTicks_of_eaMode (hop ▸ himm) (hf ▸ hmode) (.inl ⟨rfl, rfl⟩)
    simp only [State.ticksDue, ticksDueAt, htop, hm, hticks]
    exact ⟨nofun, trivial, by omega⟩
  | latches hm =>
    simp only [State.ticksDue, ticksDueAt, htop, hm]
    exact ⟨nofun, trivial, by omega⟩
  | computes hm hd hmode =>
    have hticks := decodeTicks_of_registerIndirect hd hi (hlatched _ (by omega) hd) hmode
    simp only [State.ticksDue, ticksDueAt, htop, hm, hticks]
    exact ⟨nofun, trivial, by omega⟩
  | stalls hm hb => simp [h.place.not_busy (.inl ⟨htop, hm⟩)] at hb
  | reads hm hd hmode | takes hm hd hmode =>
    have hticks := decodeTicks_of_indirection hd hi (hlatched _ (by omega) hd) hmode
    simp only [State.ticksDue, ticksDueAt, htop, hm, hticks]
    exact ⟨nofun, trivial, by omega⟩

theorem executeMoves_ticksDue (h : s.RunsLegally n) (htop : s.top = .execute) (hmove : s.ExecuteMoves i.mnemonic t) :
    (t.top ≠ .fetch ∧ t.halted = s.halted ∧ t.ticksDue i + 1 = s.ticksDue i) ∨
      ((t.top = .fetch ∨ t.halted = true) ∧ s.ticksDue i = 1) := by
  simp only [State.ticksDue, ticksDueAt, htop]
  cases hmove with
  | stalls hm hb => simp [h.place.not_busy (.inr ⟨htop, hm⟩)] at hb
  | goesOn hgo =>
    have hmore := hgo.more
    rw [hgo.micro] at hmore
    simp only [hgo.top, hgo.micro, htop]
    exact .inl ⟨nofun, hgo.halted, by omega⟩
  | finishes hfin =>
    have hlast := hfin.last
    exact .inr ⟨.inl hfin.boundary.1, by omega⟩
  | halts hm hhlt =>
    rw [hm, hhlt]
    exact .inr ⟨.inr rfl, rfl⟩

/-- A tick from a legal place that takes no fault ends the instruction when one tick is due, and otherwise leaves one
tick less due. -/
theorem tick_ticksDue (h : s.RunsLegally n) (htop : s.top ≠ .fetch) (hi : decode s.currentWord = .ok i)
    (ht : tick s = .next t) (hfault : t.fault = none) :
    (instructionEnded s t = true ∧ s.ticksDue i = 1) ∨
      (instructionEnded s t = false ∧ t.ticksDue i + 1 = s.ticksDue i) := by
  have hrun : s.stopped = false := (stopped_eq_false_iff s).2 ⟨h.halted, h.fault⟩
  obtain ⟨s1, hcu, hsame, -⟩ := tickWith_next_unfaulted ht hrun hfault
  have hgoes : s1.top ≠ .fetch ∧ s1.halted = s.halted ∧ s1.ticksDue i + 1 = s.ticksDue i →
      instructionEnded s t = false ∧ t.ticksDue i + 1 = s.ticksDue i := by
    rintro ⟨htop1, hhalted1, hdue⟩
    have hrun' : t.stopped = false := (stopped_eq_false_iff t).2 ⟨hsame.halted.trans (hhalted1.trans h.halted), hfault⟩
    refine ⟨not_instructionEnded hrun' fun hf => absurd (hsame.top.symm.trans hf) htop1, ?_⟩
    rwa [State.ticksDue, hsame.top, hsame.micro]
  cases hs : s.top with
  | fetch => exact absurd hs htop
  | decode =>
    rw [controlUnitPhase_of_decode hs] at hcu
    exact .inr (hgoes (decodeMoves_ticksDue h hs hi (decodeMicrostep_moves hcu)))
  | execute =>
    rw [controlUnitPhase_eq_word h.place.latchesAgree htop, wordControlUnit_of_execute hs] at hcu
    obtain ⟨i', hi', hmove⟩ := wordMicrostep_moves hcu
    cases hi.symm.trans hi'
    obtain hdue | ⟨hend, hdue⟩ := executeMoves_ticksDue h hs hmove
    · exact .inr (hgoes hdue)
    · refine .inl ⟨?_, hdue⟩
      obtain hfetch | hhalt := hend
      · exact instructionEnded_of_boundary htop (hsame.top.trans hfetch)
      · exact instructionEnded_of_stopped (by rw [State.stopped, hsame.halted, hhalt, Bool.true_or])

/-! ## The ticks of the whole instruction -/

theorem ticks_succ (h : tick s = .next t) (k : Nat) : ticks (k + 1) s = ticks k t := by
  rw [ticks, h]

/-- Inside an instruction the machine runs and is past its fetch. -/
theorem running_inside (htop : s.top ≠ .fetch) (hend : instructionEnded s t = false) :
    t.stopped = false ∧ t.top ≠ .fetch := by
  simp only [instructionEnded, Bool.or_eq_false_iff, Bool.and_eq_false_iff, decide_eq_false_iff_not, not_not] at hend
  exact ⟨hend.1, hend.2.resolve_left htop⟩

/-- Past the fetch the instruction ends with the last tick due, and no earlier. -/
theorem ticks_of_toEnd (k : Nat) (hplace : s.RunPlace) (hrun : s.stopped = false) (htop : s.top ≠ .fetch)
    (hi : decode s.currentWord = .ok i) (ht : toEnd tick k s = .next t) (hfault : t.fault = none)
    (hk : s.ticksDue i ≤ k) :
    ticks (s.ticksDue i) s = .next t ∧
      ∀ j u, 0 < j → j < s.ticksDue i → ticks j s = .next u → u.stopped = false ∧ ¬u.AtBoundary := by
  induction k generalizing s with
  | zero =>
    rw [Nat.le_zero.1 hk]
    exact ⟨ht, fun j u hj hlt => by omega⟩
  | succ k ih =>
    obtain ⟨n, hlegal⟩ := runsLegally_of_runPlace hplace hrun
    rw [toEnd] at ht
    cases hu : tick s with
    | fault r => simp [hu] at ht
    | refused r => simp [hu] at ht
    | next u =>
      cases hend : instructionEnded s u with
      | true =>
        simp only [hu, hend, if_true] at ht
        cases ht
        obtain ⟨-, hdue⟩ | ⟨hgo, -⟩ := tick_ticksDue hlegal htop hi hu hfault
        · rw [hdue, ticks_succ hu]
          exact ⟨rfl, fun j u hj hlt => by omega⟩
        · simp [hend] at hgo
      | false =>
        simp only [hu, hend] at ht
        obtain ⟨hrun', htop'⟩ := running_inside htop hend
        obtain ⟨hstop, -⟩ | ⟨-, hdue⟩ := tick_ticksDue hlegal htop hi hu ((stopped_eq_false_iff u).1 hrun').2
        · simp [hend] at hstop
        · obtain ⟨-, -, hword⟩ := tick_keeps_word hlegal.place.latchesAgree htop hu hend
          obtain ⟨hticks, hinside⟩ :=
            ih (tick_keeps_runPlace hplace hu) hrun' htop' (hword ▸ hi) ht (by omega)
          rw [← hdue, ticks_succ hu]
          refine ⟨hticks, fun j v hj hlt hv => ?_⟩
          obtain _ | _ | j := j
          · omega
          · rw [ticks_succ hu, ticks] at hv
            cases hv
            exact ⟨hrun', fun hb => htop' hb.1⟩
          · exact hinside (j + 1) v (by omega) (by omega) ((ticks_succ hu _).symm.trans hv)

/-- The state between the two ticks of FETCH, for a PC that names a cell (R76). -/
def State.midFetch (s : State) : State :=
  { s with cc := 0, mar := s.pc, mbr := s.mem.read s.pc.toNat, mstate := .fetch, micro := 1 }

theorem tick_of_ready (h : s.Ready) (hp : s.pc.toNat < 2048) : tick s = .next s.midFetch := by
  obtain ⟨hh, hf, ht, hm, -, -, -, hb, ha, -⟩ := h
  have hrequest := fetchMicrostep_request hm
  rw [if_neg (by rw [hb]; decide)] at hrequest
  exact tickWith_done ((stopped_eq_false_iff s).2 ⟨hh, hf⟩) ((controlUnitPhase_of_fetch ht).trans hrequest)
    (aluPhase_of_none ha) (memoryPhase_of_preFetch rfl hp)

theorem tick_midFetch (h : s.Ready) : tick s.midFetch = .next s.afterFetch := by
  obtain ⟨hh, hf, ht, -, -, -, -, -, ha, -⟩ := h
  have hrun : s.midFetch.stopped = false := (stopped_eq_false_iff _).2 ⟨hh, hf⟩
  have hcu : controlUnitPhase s.midFetch = fetchMicrostep s.midFetch := controlUnitPhase_of_fetch ht
  exact tickWith_done hrun (hcu.trans (fetchMicrostep_move rfl)) (aluPhase_of_none ha) (memoryPhase_of_busy rfl)

/-- After its fetch the machine is at a legal place. -/
theorem afterFetch_legalPlace (h : s.Ready) (hp : s.pc.toNat < 2048) : s.afterFetch.LegalPlace .none 0 := by
  obtain ⟨-, -, ht, hm, hd, he, -⟩ := afterFetch_fetched h
  exact .decodeStart ht hm hd he hp

theorem afterFetch_runPlace (h : s.Ready) (hp : s.pc.toNat < 2048) : s.afterFetch.RunPlace := by
  obtain ⟨hh, hf, -, -, -, -, hn, hms, halu⟩ := afterFetch_fetched h
  exact ⟨hn, fun _ => hf, fun _ => (controlUnitLegal_iff _).2
    ⟨0, hms ▸ afterFetch_legalPlace h hp, (aluAtStage_zero_iff _).2 halu⟩⟩

theorem ticksDue_afterFetch (i : Instr) (s : State) :
    s.afterFetch.ticksDue i = decodeTicks i + executeMicrosteps i.mnemonic := rfl

end

/-- Settles O49: two ticks of FETCH, and from there `ticks_of_toEnd`. -/
theorem instructionsTakeTheTabulatedTicks : Obligations.InstructionsTakeTheTabulatedTicks := by
  unfold Obligations.InstructionsTakeTheTabulatedTicks
  intro s t i h hp hi hstep hfault
  have hrequest := tick_of_ready h hp
  obtain ⟨hh, hf, htop, -⟩ := afterFetch_fetched h
  have hrun' : s.afterFetch.stopped = false := (stopped_eq_false_iff _).2 ⟨hh, hf⟩
  have htop' : s.afterFetch.top ≠ .fetch := by simp [htop]
  have hdue := ticksDue_afterFetch i s
  rw [step_of_ready h hp, runCurrent_eq_tickToEnd (afterFetch_legalPlace h hp).latchesAgree htop'] at hstep
  have hbound : s.afterFetch.ticksDue i ≤ maxTicks := by
    have hdecode := decodeTicks_le i
    have hexecute := executeMicrosteps_le i.mnemonic
    rw [hdue, maxTicks]
    omega
  obtain ⟨hticks, hinside⟩ := ticks_of_toEnd maxTicks (afterFetch_runPlace h hp) hrun' htop'
    (by rwa [currentWord_afterFetch h]) hstep hfault hbound
  have hticks2 : ∀ k, ticks (k + 2) s = ticks k s.afterFetch := fun k => by
    rw [ticks_succ hrequest, ticks_succ (tick_midFetch h)]
  have htotal : instructionTicks i = s.afterFetch.ticksDue i + 2 := by
    rw [hdue, instructionTicks]
    omega
  rw [htotal, hticks2]
  refine ⟨hticks, fun k v hk hlt hv => ?_⟩
  obtain _ | _ | _ | k := k
  · omega
  · rw [ticks_succ hrequest, ticks] at hv
    cases hv
    exact ⟨(stopped_eq_false_iff _).2 ⟨hh, hf⟩, fun hb => absurd hb.2 Nat.one_ne_zero⟩
  · rw [hticks2, ticks] at hv
    cases hv
    exact ⟨hrun', fun hb => htop' hb.1⟩
  · exact hinside (k + 1) v (by omega) (by omega) ((hticks2 _).symm.trans hv)

end Sys2Proof.Machine
end

section
/-!
PROOFS. The arithmetic-logic unit: its functions at every width (41_alu.md R94 to R99), one cycle of it in each of its
states (R90), and how long a result can be read (R92).
-/

namespace Sys2Proof.Machine

open Sys2Proof

/-! ## The signed range -/

/-- The range test of `BitVec.saddOverflow` and `BitVec.ssubOverflow`, as the spec writes it. -/
theorem outsideSignedRange_iff (w : Nat) (n : Int) :
    (decide (n ≥ 2 ^ (w - 1)) || decide (n < -2 ^ (w - 1))) = true ↔ n < -(2 ^ (w - 1)) ∨ 2 ^ (w - 1) - 1 < n := by
  rw [Bool.or_eq_true, decide_eq_true_iff, decide_eq_true_iff, or_comm, ge_iff_le, Int.sub_one_lt_iff]

/-! ## ADD (R94) -/

theorem aluAdd_eq_add {w : Nat} (a b : BitVec w) : aluAdd a b = a + b := by
  rw [aluAdd, BitVec.ofNat_add, BitVec.ofNat_toNat, BitVec.ofNat_toNat, BitVec.setWidth_eq, BitVec.setWidth_eq]

theorem addOverflow_iff {w : Nat} (a b r : BitVec w) :
    addOverflow a b r = true ↔ a.msb = b.msb ∧ r.msb ≠ a.msb := by
  simp [addOverflow]

/-- The sign bits tell that the exact signed sum is out of range. -/
theorem addOverflow_add {w : Nat} (a b : BitVec w) : addOverflow a b (a + b) = a.saddOverflow b :=
  (BitVec.saddOverflow_eq a b).symm

theorem saddOverflow_iff {w : Nat} (a b : BitVec w) :
    a.saddOverflow b = true ↔ a.toInt + b.toInt < -(2 ^ (w - 1)) ∨ 2 ^ (w - 1) - 1 < a.toInt + b.toInt :=
  outsideSignedRange_iff w _

/-! ## SUBTRACT (R95) -/

theorem aluSubtract_eq_sub {w : Nat} (a b : BitVec w) : aluSubtract a b = a - b := by
  rw [aluSubtract, BitVec.ofNat_add, BitVec.ofNat_add, BitVec.ofNat_toNat, BitVec.ofNat_toNat, BitVec.setWidth_eq,
    BitVec.setWidth_eq, BitVec.sub_eq_add_neg, BitVec.neg_eq_not_add, BitVec.add_assoc]

theorem ofInt_sub_eq_sub {w : Nat} (a b : BitVec w) : BitVec.ofInt w ((a.toNat : Int) - b.toNat) = a - b := by
  have hsum : BitVec.ofInt w ((a.toNat : Int) - b.toNat) + b = a := by
    calc BitVec.ofInt w ((a.toNat : Int) - b.toNat) + b
        = BitVec.ofInt w ((a.toNat : Int) - b.toNat) + BitVec.ofInt w (b.toNat : Int) := by simp
      _ = BitVec.ofInt w (a.toNat : Int) := by rw [← BitVec.ofInt_add, Int.sub_add_cancel]
      _ = a := by simp
  rw [← BitVec.add_sub_cancel (BitVec.ofInt w _) b, hsum]

theorem aluSubtract_eq_ofInt {w : Nat} (a b : BitVec w) :
    aluSubtract a b = BitVec.ofInt w ((a.toNat : Int) - b.toNat) :=
  (aluSubtract_eq_sub a b).trans (ofInt_sub_eq_sub a b).symm

theorem subOverflow_iff {w : Nat} (a b r : BitVec w) :
    subOverflow a b r = true ↔ a.msb ≠ b.msb ∧ r.msb ≠ a.msb := by
  simp [subOverflow]

/-- The sign bits tell that the exact signed difference is out of range. -/
theorem subOverflow_sub {w : Nat} (a b : BitVec w) : subOverflow a b (a - b) = a.ssubOverflow b := by
  rw [BitVec.ssubOverflow_eq, subOverflow]
  cases a.msb <;> cases b.msb <;> simp

theorem ssubOverflow_iff {w : Nat} (a b : BitVec w) :
    a.ssubOverflow b = true ↔ a.toInt - b.toInt < -(2 ^ (w - 1)) ∨ 2 ^ (w - 1) - 1 < a.toInt - b.toInt :=
  outsideSignedRange_iff w _

/-- Subtracting what was added gives back the first operand. -/
theorem aluSubtract_aluAdd {w : Nat} (a b : BitVec w) : aluSubtract (aluAdd a b) b = a := by
  rw [aluSubtract_eq_sub, aluAdd_eq_add, BitVec.add_sub_cancel]

/-! ## MULTIPLY and DIVIDE (R98, R99) -/

/-- The low `w` bits of an integer, read unsigned, are the integer modulo 2^w. -/
theorem trunc_toNat (w : Nat) (n : Int) : ((trunc w n).toNat : Int) = n % 2 ^ w := by
  have hpow : ((2 ^ w : Nat) : Int) = 2 ^ w := by norm_cast
  rw [BitVec.toNat_ofInt, hpow, Int.toNat_of_nonneg (Int.emod_nonneg n (by positivity))]

theorem aluCompute_divide_of_zero {w : Nat} {a b : BitVec w} (hb : b.toNat = 0) :
    aluCompute .divide a b = .error .divisionByZero := by
  simp [aluCompute, aluDivide, hb]

theorem aluCompute_divide_of_nonzero {w : Nat} {a b : BitVec w} (hb : b.toNat ≠ 0) :
    aluCompute .divide a b = .ok (trunc w (Int.tdiv a.toInt b.toInt), none) := by
  simp [aluCompute, aluDivide, hb]

/-- Settles O11: both results are truncated integers, read by `trunc_toNat`. -/
theorem multiplyAndDivideAreSignedAndWriteNoFlag : Obligations.MultiplyAndDivideAreSignedAndWriteNoFlag := by
  unfold Obligations.MultiplyAndDivideAreSignedAndWriteNoFlag
  intro w a b _
  exact ⟨⟨_, rfl, trunc_toNat w _⟩, aluCompute_divide_of_zero,
    fun hb => ⟨_, aluCompute_divide_of_nonzero hb, trunc_toNat w _⟩⟩

/-! ## One cycle (R90) -/

@[simp] theorem State.storeResult_result (s : State) (v : Word) (ovf : Option Bool) :
    (s.storeResult v ovf).result = some v := rfl

@[simp] theorem State.storeResult_astate (s : State) (v : Word) (ovf : Option Bool) :
    (s.storeResult v ovf).astate = .finished := rfl

@[simp] theorem State.storeResult_op1 (s : State) (v : Word) (ovf : Option Bool) : (s.storeResult v ovf).op1 = none := rfl

@[simp] theorem State.storeResult_op2 (s : State) (v : Word) (ovf : Option Bool) : (s.storeResult v ovf).op2 = none := rfl

@[simp] theorem State.storeResult_ctrl (s : State) (v : Word) (ovf : Option Bool) :
    (s.storeResult v ovf).ctrl = none := rfl

@[simp] theorem State.storeResult_cc_some (s : State) (v : Word) (b : Bool) :
    (s.storeResult v (some b)).cc = ccWithOverflow s.cc b := rfl

@[simp] theorem State.storeResult_cc_none (s : State) (v : Word) : (s.storeResult v none).cc = s.cc := rfl

/-- A stored result as one update of the state. -/
theorem State.storeResult_eq (s : State) (v : Word) (ovf : Option Bool) :
    s.storeResult v ovf = { s with
      result := some v, astate := .finished, op1 := none, op2 := none, ctrl := none,
      cc := ovf.elim s.cc fun b => ccWithOverflow s.cc b } := by
  cases ovf <;> rfl

/-- A result is dropped in the cycle after it was stored. -/
theorem aluPhase_of_finished {s : State} (h : s.astate = .finished) :
    aluPhase s = .done { s with astate := .none, result := none } := by
  rw [aluPhase, h]

theorem aluPhase_of_missing {s : State} (hs : s.astate = .startComputation)
    (h : s.op1 = none ∨ s.op2 = none ∨ s.ctrl = none) : aluPhase s = .raise (.aluProtocol .missingInput) := by
  simp only [aluPhase, hs]
  split
  · next h1 h2 hc => simp [h1, h2, hc] at h
  · rfl

section

variable {s : State} {a b : Word} {c : AluControl} (hs : s.astate = .startComputation) (h1 : s.op1 = some a)
  (h2 : s.op2 = some b) (hc : s.ctrl = some c)

include hs h1 h2 hc

theorem aluPhase_of_staged :
    aluPhase s = orRaise (aluCompute c a b) fun r => .done (s.storeResult r.1 r.2) := by
  simp only [aluPhase, hs, h1, h2, hc]

theorem aluPhase_of_error {e : FaultKind} (h : aluCompute c a b = .error e) : aluPhase s = .raise e := by
  rw [aluPhase_of_staged hs h1 h2 hc, h, orRaise_error]

theorem aluPhase_of_ok {r : Word} {ovf : Option Bool} (h : aluCompute c a b = .ok (r, ovf)) :
    aluPhase s = .done (s.storeResult r ovf) := by
  rw [aluPhase_of_staged hs h1 h2 hc, h, orRaise_ok]

/-- A function that answers an overflow stores its result and writes CC.OVF alone of CC. -/
theorem aluPhase_writes_overflow_alone {r : Word} {ovf : Bool} (h : aluCompute c a b = .ok (r, some ovf)) :
    ∃ t, aluPhase s = .done t ∧ t.result = some r ∧ ccBit t.cc ccOVF = ovf ∧
      ∀ i, i ≠ ccOVF → ccBit t.cc i = ccBit s.cc i :=
  ⟨_, aluPhase_of_ok hs h1 h2 hc h, rfl, by simp, fun _ hi => by simp [ccBit_ccWithOverflow_of_ne _ _ hi]⟩

end

/-- Settles O12: one lemma for each row of the case table. -/
theorem aluPhaseMakesOneTransition : Obligations.AluPhaseMakesOneTransition := by
  unfold Obligations.AluPhaseMakesOneTransition
  intro s
  refine ⟨aluPhase_of_missing, fun a b c hs h1 h2 hc => ⟨fun e => aluPhase_of_error hs h1 h2 hc, fun r ovf h => ?_⟩,
    aluPhase_of_finished, aluPhase_of_none⟩
  rw [aluPhase_of_ok hs h1 h2 hc h, State.storeResult_eq]

/-! ## The functions in the ALU phase -/

/-- Settles O8: the sum is `a + b`, the sign bits are `BitVec.saddOverflow`, and the phase writes CC.OVF alone. -/
theorem addGivesTheSumAndSignedOverflow : Obligations.AddGivesTheSumAndSignedOverflow := by
  unfold Obligations.AddGivesTheSumAndSignedOverflow
  refine ⟨fun w a b _ => ⟨_, rfl, addOverflow_iff a b _, ?_⟩, fun s a b hs h1 h2 hc => ?_⟩
  · rw [aluAdd_eq_add, addOverflow_add, saddOverflow_iff]
  · exact aluPhase_writes_overflow_alone hs h1 h2 hc rfl

/-- SUBTRACT with its result as the difference of the unsigned values. -/
theorem aluCompute_subtract {w : Nat} (a b : BitVec w) :
    aluCompute .subtract a b = .ok (BitVec.ofInt w ((a.toNat : Int) - b.toNat),
      some (subOverflow a b (BitVec.ofInt w ((a.toNat : Int) - b.toNat)))) := by
  rw [aluCompute, aluSubtract_eq_ofInt]

/-- Settles O9: the difference is `a - b`, the sign bits are `BitVec.ssubOverflow`, and the phase writes CC.OVF alone. -/
theorem subtractGivesTheDifferenceAndSignedOverflow : Obligations.SubtractGivesTheDifferenceAndSignedOverflow := by
  unfold Obligations.SubtractGivesTheDifferenceAndSignedOverflow
  refine ⟨fun w a b _ => ⟨_, aluCompute_subtract a b, (aluSubtract_eq_ofInt a b).symm, subOverflow_iff a b _, ?_,
    aluSubtract_aluAdd a b⟩, fun s a b hs h1 h2 hc => ?_⟩
  · rw [ofInt_sub_eq_sub, subOverflow_sub, ssubOverflow_iff]
  · exact aluPhase_writes_overflow_alone hs h1 h2 hc (aluCompute_subtract a b)

theorem aluAnd_getMsbD {w : Nat} (a b : BitVec w) (i : Nat) : (aluAnd a b).getMsbD i = (a.getMsbD i && b.getMsbD i) :=
  BitVec.getMsbD_and

theorem orHelper_getMsbD {w : Nat} (a b : BitVec w) (i : Nat) :
    (orHelper a b).getMsbD i = (a.getMsbD i || b.getMsbD i) :=
  BitVec.getMsbD_or

/-- Settles O10: bit by bit, and a function without an overflow keeps CC. -/
theorem andAndOrHelperAreBitwise : Obligations.AndAndOrHelperAreBitwise := by
  unfold Obligations.AndAndOrHelperAreBitwise
  refine ⟨fun w a b => ⟨⟨_, rfl, aluAnd_getMsbD a b⟩, orHelper_getMsbD a b⟩, fun s a b hs h1 h2 hc => ?_⟩
  exact ⟨_, aluPhase_of_ok hs h1 h2 hc rfl, ⟨_, rfl, aluAnd_getMsbD a b⟩, State.storeResult_cc_none s _⟩

/-! ## Reading a result (R91, R92) -/

theorem withResult_of_finished {s : State} {r : Word} (hs : s.astate = .finished) (hr : s.result = some r)
    (k : Word → PhaseResult) : s.withResult k = k r := by
  simp only [State.withResult, hs, hr]

theorem withResult_of_idle {s : State} (hs : s.AluIdle) (k : Word → PhaseResult) :
    s.withResult k = .raise (.aluProtocol .resultNotFinished) := by
  obtain ⟨hastate, -⟩ := hs
  simp only [State.withResult, hastate]

theorem storeResult_aluAtStage (s : State) (v : Word) (ovf : Option Bool) :
    (s.storeResult v ovf).aluAtStage 4 = true := by
  simp [aluAtStage_four_iff]

/-- Settles O13: the first phase stores the result and clears the inputs, the second makes the ALU idle. -/
theorem resultIsReadableForOneTick : Obligations.ResultIsReadableForOneTick := by
  unfold Obligations.ResultIsReadableForOneTick
  intro s a b r c ovf _ hcompute
  have hstore := aluPhase_of_ok (s := (((s.setOperand1 a).setOperand2 b).setControl c).signalReady)
    rfl rfl rfl rfl hcompute
  obtain ⟨u, hdrop, hstage⟩ := aluReaches_of_finished (storeResult_aluAtStage _ r ovf) ⟨rfl, rfl, rfl, rfl, rfl⟩
  have hidle := (aluAtStage_zero_iff u).1 hstage
  exact ⟨_, u, hstore, withResult_of_finished (State.storeResult_astate _ r ovf) (State.storeResult_result _ r ovf),
    State.storeResult_op1 _ r ovf, State.storeResult_op2 _ r ovf, State.storeResult_ctrl _ r ovf, hdrop,
    withResult_of_idle hidle, hidle⟩

end Sys2Proof.Machine
end

section
/-!
PROOFS. From DECODE to the end of EXECUTE (40_cycle.md R78 to R84): an instruction whose decode read names a cell ends
where the ticks of its microsequence end from `State.atExecute`. What one tick of EXECUTE does, the memory access of E0,
and completion are said once for all instructions.
-/

namespace Sys2Proof.Machine

open Sys2Proof

/-! ## The state at EXECUTE µ0 -/

section

variable (s : State) (i : Instr)

@[simp] theorem State.atExecute_regs : (s.atExecute i).regs = s.regs := s.afterDecode_regs _
@[simp] theorem State.atExecute_index : (s.atExecute i).index = s.index := s.afterDecode_index _
@[simp] theorem State.atExecute_pc : (s.atExecute i).pc = s.pc := s.afterDecode_pc _
@[simp] theorem State.atExecute_mem : (s.atExecute i).mem = s.mem := s.afterDecode_mem _
@[simp] theorem State.atExecute_top : (s.atExecute i).top = .execute := rfl
@[simp] theorem State.atExecute_micro : (s.atExecute i).micro = 0 := rfl
@[simp] theorem State.atExecute_ea : (s.atExecute i).ea = some (s.effectiveAddress i.fields) := rfl
@[simp] theorem State.atExecute_nextPC : (s.atExecute i).nextPC = s.nextPC := s.afterDecode_nextPC _
@[simp] theorem State.atExecute_halted : (s.atExecute i).halted = s.halted := s.afterDecode_halted _
@[simp] theorem State.atExecute_fault : (s.atExecute i).fault = s.fault := s.afterDecode_fault _
@[simp] theorem State.atExecute_mstate : (s.atExecute i).mstate = s.mstate := s.afterDecode_mstate _
@[simp] theorem State.atExecute_astate : (s.atExecute i).astate = s.astate := s.afterDecode_astate _

end

/-- A running machine in EXECUTE. -/
abbrev State.Executing (s : State) : Prop := s.top = .execute ∧ s.stopped = false

/-- A running machine in EXECUTE whose units are idle and which has taken no jump, as DECODE leaves it. -/
structure State.ExecuteReady (s : State) : Prop where
  executing : s.Executing
  nextPC : s.nextPC = none
  mstate : s.mstate = .none
  astate : s.astate = .none

theorem atExecute_ready {s : State} (h : s.Fetched) (i : Instr) : (s.atExecute i).ExecuteReady := by
  obtain ⟨hhalted, hfault, -, -, -, -, hnext, hmstate, hastate, -⟩ := h
  exact ⟨⟨rfl, by simp [State.stopped, hhalted, hfault]⟩, by simp [hnext], by simp [hmstate], by simp [hastate]⟩

/-! ## The ticks of EXECUTE -/

/-- The control unit running the instruction `i`, as in `exec_eq_runInstruction`. -/
def controlUnitOf (i : Instr) : State → PhaseResult :=
  instructionControlUnit (Config.opcodeMap i.mnemonic) i.fields (executeMicrostep i)

/-- The instruction `i`, from the state `t`, ends at `u` within `k` ticks. -/
def ExecutesTo (i : Instr) (k : Nat) (t u : State) : Prop :=
  ∀ n, toEnd (tickWith (controlUnitOf i)) (n + k) t = .next u

/-- The instructions that compute an effective address: all but AIR and SIR (R78). -/
abbrev UsesEa (i : Instr) : Prop := i.mnemonic ≠ .AIR ∧ i.mnemonic ≠ .SIR

section

variable {i : Instr} {s t t1 t2 t3 u : State} {k : Nat} {e : FaultKind}

/-- DECODE takes at most 3 of the 12 ticks that bound an instruction. -/
theorem exec_of_executesTo (h : s.Fetched) (hi : UsesEa i) (hr : s.DecodeReadable i.fields)
    (hexe : ExecutesTo i k (s.atExecute i) u) (hk : k ≤ 9) : exec i s = .next u := by
  obtain ⟨hair, hsir⟩ := hi
  obtain ⟨d, hd, hdecode⟩ := decode_reaches_execute (Config.opcodeMap i.mnemonic) i.fields (executeMicrostep i) s h
    (fun heq => hair (opcodeMap_injective heq)) (fun heq => hsir (opcodeMap_injective heq)) hr
  have hsplit : maxTicks = 12 - d - k + k + d := by
    rw [maxTicks]
    omega
  rw [exec_eq_runInstruction, runInstruction, hsplit, hdecode]
  exact hexe _

theorem controlUnitOf_of_execute (ht : t.top = .execute) : controlUnitOf i t = executeMicrostep i t := by
  rw [controlUnitOf, instructionControlUnit, ht]

/-- A tick of EXECUTE that stays in EXECUTE. -/
theorem executesTo_tick (ht : t.Executing) (h1 : executeMicrostep i t = .done t1) (h2 : aluPhase t1 = .done t2)
    (h3 : memoryPhase t2 = .done t3) (ht3 : t3.Executing) (hrest : ExecutesTo i k t3 u) : ExecutesTo i (k + 1) t u := by
  obtain ⟨htop, hrun⟩ := ht
  intro n
  have hcu := (controlUnitOf_of_execute htop).trans h1
  rw [← Nat.add_assoc, toEnd_tick_goes_on _ hrun hcu h2 h3 (not_instructionEnded ht3.2 (by simp [ht3.1]))]
  exact hrest n

/-- A tick of EXECUTE that ends the instruction. -/
theorem executesTo_end (ht : t.Executing) (h1 : executeMicrostep i t = .done t1) (h2 : aluPhase t1 = .done t2)
    (h3 : memoryPhase t2 = .done u) (hend : u.stopped = true ∨ u.top = .fetch) : ExecutesTo i 1 t u := by
  obtain ⟨htop, hrun⟩ := ht
  intro n
  have hcu := (controlUnitOf_of_execute htop).trans h1
  refine toEnd_tick_ends _ hrun hcu h2 h3 ?_
  obtain hstop | hfetch := hend
  · exact instructionEnded_of_stopped hstop
  · exact instructionEnded_of_boundary (by simp [htop]) hfetch

/-- A microstep of EXECUTE that raises a fault. -/
theorem executesTo_raise (ht : t.Executing) (h1 : executeMicrostep i t = .raise e) :
    ExecutesTo i 1 t (t.takeFault e .controlUnit) := by
  obtain ⟨htop, hrun⟩ := ht
  intro n
  exact toEnd_tick_raises hrun ((controlUnitOf_of_execute htop).trans h1)

/-- A tick of EXECUTE whose memory phase raises a fault. -/
theorem executesTo_memory_raise (ht : t.Executing) (h1 : executeMicrostep i t = .done t1)
    (h2 : aluPhase t1 = .done t2) (h3 : memoryPhase t2 = .raise e) : ExecutesTo i 1 t (t2.takeFault e .memory) := by
  obtain ⟨htop, hrun⟩ := ht
  intro n
  exact toEnd_tick_memory_raises hrun ((controlUnitOf_of_execute htop).trans h1) h2 h3

/-- A fault of E0 is taken in the state that DECODE leaves. -/
theorem exec_raises_at_execute (h : s.Fetched) (hi : UsesEa i) (hr : s.DecodeReadable i.fields)
    (hexe : executeMicrostep i (s.atExecute i) = .raise e) :
    exec i s = .next ((s.atExecute i).takeFault e .controlUnit) :=
  exec_of_executesTo h hi hr (executesTo_raise (atExecute_ready h i).executing hexe) (by decide)

/-! ## Completion -/

/-- After the tick of a completion without a jump, with the memory unit idle again (R84; 20_memory.md R42). -/
def State.completed (u : State) : State := { u.finishAt u.pcPlusOne with mstate := .none }

/-- Completion clears the latches that DECODE has filled. -/
theorem completed_atExecute (h : s.Fetched) (i : Instr) :
    (s.atExecute i).completed = (s.afterDecode i.fields).backToFetch s.pcPlusOne := by
  obtain ⟨-, -, -, -, hdec, hea, hnext, hmstate, -⟩ := h
  rw [← s.afterDecode_dec i.fields] at hdec
  rw [← s.afterDecode_ea i.fields] at hea
  rw [← s.afterDecode_nextPC i.fields] at hnext
  rw [← s.afterDecode_mstate i.fields] at hmstate
  rw [State.completed, State.pcPlusOne, s.atExecute_pc, State.finishAt, State.backToFetch, hdec, hea, hnext, hmstate]
  rfl

/-- A memory unit without a pending access is idle after its phase (20_memory.md R42). -/
theorem memoryPhase_of_served (h : s.mstate = .none ∨ s.mstate.busy = true) :
    memoryPhase s = .done { s with mstate := .none } := by
  obtain hidle | hbusy := h
  · rw [memoryPhase_of_none hidle, ← hidle]
  · exact memoryPhase_of_busy hbusy

/-- The tick of a last microstep that completes in `u` without a jump, while the ALU is idle (R84). -/
theorem executesTo_complete (ht : t.Executing) (h1 : executeMicrostep i t = u.complete) (hnext : u.nextPC = none)
    (hpc : u.pc.toNat < 8191) (halu : u.astate = .none) (hmem : u.mstate = .none ∨ u.mstate.busy = true) :
    ExecutesTo i 1 t u.completed :=
  executesTo_end ht (h1.trans (complete_of_no_jump hnext hpc)) (aluPhase_of_none halu) (memoryPhase_of_served hmem)
    (.inr rfl)

end

/-! ## The memory access of E0 -/

/-- E0 of an instruction that reads `M[ea]`. -/
def State.requestRead (t : State) : PhaseResult :=
  t.withEa fun ea => orStall t (t.setMAR ea) fun t1 => .done t1.nextMicro

/-- E0 of an instruction that writes `v` to `M[ea]`. -/
def State.requestWrite (t : State) (v : Word) : PhaseResult :=
  t.withEa fun ea => orStall t (t.setMAR ea) fun t1 => orStall t (t1.setMBR v) fun t2 => .done t2.nextMicro

/-- The instructions that read `M[ea]` in E0; LDX with a named register (42_halt_load_store.md R102, R105;
43_arithmetic.md R107, R108). -/
inductive ReadsMemory : Instr → Prop
  | ldr (f : Fields) : ReadsMemory (.ldr f)
  | amr (f : Fields) : ReadsMemory (.amr f)
  | smr (f : Fields) : ReadsMemory (.smr f)
  | ldx (f : Fields) (hx : f.xfi ≠ 0) : ReadsMemory (.ldx f)

/-- The instructions that write a word to `M[ea]`, with the word, by the registers they take it from; STX with a named
register (42_halt_load_store.md R103, R106). -/
inductive WritesMemory (g : GeneralRegs) (x : IndexRegs) : Instr → Word → Prop
  | str (f : Fields) : WritesMemory g x (.str f) (g.get f.r)
  | stx (f : Fields) (v : Addr) (hv : x.get f.xfi = some v) : WritesMemory g x (.stx f) (v.setWidth 20)

section

variable {i : Instr} {s t u : State} {v : Word} {g : GeneralRegs} {x : IndexRegs} {ea k : Nat}

theorem ReadsMemory.usesEa (h : ReadsMemory i) : UsesEa i := by
  cases h <;> exact ⟨nofun, nofun⟩

theorem WritesMemory.usesEa (h : WritesMemory g x i v) : UsesEa i := by
  cases h <;> exact ⟨nofun, nofun⟩

/-- DECODE changes no register that the word is taken from. -/
theorem WritesMemory.atExecute (h : WritesMemory s.regs s.index i v) :
    WritesMemory (s.atExecute i).regs (s.atExecute i).index i v := by
  rwa [s.atExecute_regs, s.atExecute_index]

theorem ReadsMemory.executeMicrostep_eq (h : ReadsMemory i) (hm : t.micro = 0) :
    executeMicrostep i t = t.requestRead := by
  cases h with
  | ldr f => rw [executeMicrostep, ldrMicrostep, hm]; rfl
  | amr f => rw [executeMicrostep, amrMicrostep, hm]; rfl
  | smr f => rw [executeMicrostep, smrMicrostep.eq_def, hm]; rfl
  | ldx f hx => rw [executeMicrostep, ldxMicrostep, hm]; exact if_neg hx

theorem WritesMemory.executeMicrostep_eq (h : WritesMemory t.regs t.index i v) (hm : t.micro = 0) :
    executeMicrostep i t = t.requestWrite v := by
  cases h with
  | str f => rw [executeMicrostep, strMicrostep, hm]; rfl
  | stx f x hx => rw [executeMicrostep, stxMicrostep, hm]; simp only [hx]; rfl

theorem requestRead_of_fits (hm : t.micro = 0) (hidle : t.mstate = .none) (hea : t.ea = some ea) (hfits : ea ≤ 8191) :
    t.requestRead = .done (t.readPending ea) := by
  rw [State.requestRead, withEa_of_some _ hea, setMAR_of_nat (by rw [hidle]; rfl) (Nat.lt_succ_of_le hfits), orStall,
    State.nextMicro, State.readPending, hm]

theorem requestRead_too_wide (hidle : t.mstate = .none) (hea : t.ea = some ea) (hwide : 8191 < ea) :
    t.requestRead = .raise (.construction 13 ea) := by
  rw [State.requestRead, withEa_of_some _ hea, setMAR_too_wide (by rw [hidle]; rfl) hwide, orStall]

theorem requestWrite_of_fits (hm : t.micro = 0) (hidle : t.mstate = .none) (hea : t.ea = some ea) (hfits : ea ≤ 8191) :
    t.requestWrite v = .done (t.writePending ea v) := by
  rw [State.requestWrite, withEa_of_some _ hea, setMAR_of_nat (by rw [hidle]; rfl) (Nat.lt_succ_of_le hfits), orStall,
    setMBR_of_idle v rfl, orStall, State.nextMicro, State.writePending, hm]

theorem requestWrite_too_wide (hidle : t.mstate = .none) (hea : t.ea = some ea) (hwide : 8191 < ea) :
    t.requestWrite v = .raise (.construction 13 ea) := by
  rw [State.requestWrite, withEa_of_some _ hea, setMAR_too_wide (by rw [hidle]; rfl) hwide, orStall]

/-! ### The access names a cell -/

/-- After the tick of E0 of a memory read that names a cell (20_memory.md R40). -/
def State.readServed (t : State) (ea : Nat) : State :=
  { t.readPending ea with mbr := t.mem.read ea, mstate := .fetch }

/-- After the tick of E0 of a memory write that names a cell (20_memory.md R41). -/
def State.writeServed (t : State) (ea : Nat) (v : Word) : State :=
  { t.writePending ea v with mem := t.mem.write ea v, mstate := .store }

theorem memoryPhase_readPending (hcell : ea < 2048) : memoryPhase (t.readPending ea) = .done (t.readServed ea) :=
  memoryPhase_of_readAt rfl rfl hcell

theorem memoryPhase_writePending (hcell : ea < 2048) :
    memoryPhase (t.writePending ea v) = .done (t.writeServed ea v) :=
  memoryPhase_of_writeAt rfl rfl hcell

@[simp] theorem State.readServed_regs : (t.readServed ea).regs = t.regs := rfl
@[simp] theorem State.readServed_index : (t.readServed ea).index = t.index := rfl
@[simp] theorem State.readServed_mbr : (t.readServed ea).mbr = t.mem.read ea := rfl

theorem executesTo_of_read (hread : ReadsMemory i) (ht : t.ExecuteReady) (hm : t.micro = 0) (hea : t.ea = some ea)
    (hcell : ea < 2048) (hrest : ExecutesTo i k (t.readServed ea) u) : ExecutesTo i (k + 1) t u :=
  executesTo_tick ht.executing
    ((hread.executeMicrostep_eq hm).trans (requestRead_of_fits hm ht.mstate hea (by omega)))
    (aluPhase_of_none ht.astate) (memoryPhase_readPending hcell) ht.executing hrest

theorem executesTo_of_write (hwrite : WritesMemory t.regs t.index i v) (ht : t.ExecuteReady) (hm : t.micro = 0)
    (hea : t.ea = some ea) (hcell : ea < 2048) (hrest : ExecutesTo i k (t.writeServed ea v) u) :
    ExecutesTo i (k + 1) t u :=
  executesTo_tick ht.executing
    ((hwrite.executeMicrostep_eq hm).trans (requestWrite_of_fits hm ht.mstate hea (by omega)))
    (aluPhase_of_none ht.astate) (memoryPhase_writePending hcell) ht.executing hrest

/-- A memory-reading instruction ends where its microsteps from E1 on end, with the word of `M[ea]` in MBR. -/
theorem exec_of_read (hread : ReadsMemory i) (h : s.Fetched) (hr : s.DecodeReadable i.fields)
    (hea : s.effectiveAddress i.fields = ea) (hcell : ea < 2048)
    (hrest : ExecutesTo i k ((s.atExecute i).readServed ea) u) (hk : k ≤ 8) : exec i s = .next u :=
  exec_of_executesTo h hread.usesEa hr
    (executesTo_of_read hread (atExecute_ready h i) rfl (congrArg some hea) hcell hrest) (Nat.succ_le_succ hk)

/-- A memory-writing instruction ends where its microsteps from E1 on end, with the word in MBR and in `M[ea]`. -/
theorem exec_of_write (hwrite : WritesMemory s.regs s.index i v) (h : s.Fetched) (hr : s.DecodeReadable i.fields)
    (hea : s.effectiveAddress i.fields = ea) (hcell : ea < 2048)
    (hrest : ExecutesTo i k ((s.atExecute i).writeServed ea v) u) (hk : k ≤ 8) : exec i s = .next u :=
  exec_of_executesTo h hwrite.usesEa hr
    (executesTo_of_write hwrite.atExecute (atExecute_ready h i) rfl (congrArg some hea) hcell hrest)
    (Nat.succ_le_succ hk)

/-! ### The access names no cell -/

/-- A pending access at an address of MAR that names no cell (20_memory.md R43). -/
theorem memoryPhase_of_pendingOutside (hpending : t.mstate = .preFetch ∨ t.mstate = .preStore)
    (hmar : t.mar = BitVec.ofNat 13 ea) (hlow : 2048 ≤ ea) (hhigh : ea ≤ 8191) :
    memoryPhase t = .raise (.addressOutOfRange ea) := by
  have hto : t.mar.toNat = ea := by rw [hmar, BitVec.toNat_ofNat, Nat.mod_eq_of_lt (by omega)]
  rw [memoryPhase_of_outOfRange hpending (by omega), hto]

theorem exec_read_outside (hread : ReadsMemory i) (h : s.Fetched) (hr : s.DecodeReadable i.fields)
    (hea : s.effectiveAddress i.fields = ea) (hlow : 2048 ≤ ea) (hhigh : ea ≤ 8191) :
    exec i s = .next (((s.atExecute i).readPending ea).takeFault (.addressOutOfRange ea) .memory) := by
  have ht := atExecute_ready h i
  have hrequest := requestRead_of_fits rfl ht.mstate (congrArg some hea) hhigh
  exact exec_of_executesTo h hread.usesEa hr
    (executesTo_memory_raise ht.executing ((hread.executeMicrostep_eq rfl).trans hrequest)
      (aluPhase_of_none ht.astate) (memoryPhase_of_pendingOutside (.inl rfl) rfl hlow hhigh)) (by decide)

theorem exec_write_outside (hwrite : WritesMemory s.regs s.index i v) (h : s.Fetched)
    (hr : s.DecodeReadable i.fields) (hea : s.effectiveAddress i.fields = ea) (hlow : 2048 ≤ ea) (hhigh : ea ≤ 8191) :
    exec i s = .next (((s.atExecute i).writePending ea v).takeFault (.addressOutOfRange ea) .memory) := by
  have ht := atExecute_ready h i
  have hrequest := requestWrite_of_fits (v := v) rfl ht.mstate (congrArg some hea) hhigh
  exact exec_of_executesTo h hwrite.usesEa hr
    (executesTo_memory_raise ht.executing ((hwrite.atExecute.executeMicrostep_eq rfl).trans hrequest)
      (aluPhase_of_none ht.astate) (memoryPhase_of_pendingOutside (.inr rfl) rfl hlow hhigh)) (by decide)

theorem exec_read_too_wide (hread : ReadsMemory i) (h : s.Fetched) (hr : s.DecodeReadable i.fields)
    (hea : s.effectiveAddress i.fields = ea) (hwide : 8191 < ea) :
    exec i s = .next ((s.atExecute i).takeFault (.construction 13 ea) .controlUnit) :=
  exec_raises_at_execute h hread.usesEa hr ((hread.executeMicrostep_eq rfl).trans
    (requestRead_too_wide (atExecute_ready h i).mstate (congrArg some hea) hwide))

theorem exec_write_too_wide (hwrite : WritesMemory s.regs s.index i v) (h : s.Fetched)
    (hr : s.DecodeReadable i.fields) (hea : s.effectiveAddress i.fields = ea) (hwide : 8191 < ea) :
    exec i s = .next ((s.atExecute i).takeFault (.construction 13 ea) .controlUnit) :=
  exec_raises_at_execute h hwrite.usesEa hr ((hwrite.atExecute.executeMicrostep_eq rfl).trans
    (requestWrite_too_wide (atExecute_ready h i).mstate (congrArg some hea) hwide))

end

end Sys2Proof.Machine
end

section
/-!
PROOFS. HLT, the loads and the stores (42_halt_load_store.md R101 to R106), and the faults of the execute access and of
the index registers.
-/

namespace Sys2Proof.Machine

open Sys2Proof

/-! ## HLT -/

/-- Settles O20: E0 halts the machine, which ends the run of ticks. -/
theorem hltHaltsWithoutCompleting : Obligations.HltHaltsWithoutCompleting := by
  unfold Obligations.HltHaltsWithoutCompleting
  intro f s h hr
  have ht := atExecute_ready h (.hlt f)
  have hend : ExecutesTo (.hlt f) 1 (s.atExecute (.hlt f)) (s.atExecute (.hlt f)).halt :=
    executesTo_end ht.executing rfl (aluPhase_of_none ht.astate) (memoryPhase_of_none ht.mstate) (.inl rfl)
  exact exec_of_executesTo h ⟨nofun, nofun⟩ hr hend (by decide)

/-! ## Instructions that access memory in E0 and complete in E1 -/

section

variable {i : Instr} {s : State} {v : Word} {ea : Nat}

/-- A load of general or index registers: E0 reads `M[ea]` into MBR, E1 writes the registers and completes. -/
theorem exec_load {g : GeneralRegs} {x : IndexRegs} (hread : ReadsMemory i) (h : s.Fetched)
    (hr : s.DecodeReadable i.fields) (hea : s.effectiveAddress i.fields = ea) (hcell : ea < 2048)
    (hpc : s.pc.toNat < 8191)
    (hlast : executeMicrostep i ((s.atExecute i).readServed ea) =
      State.complete { (s.atExecute i).readServed ea with regs := g, index := x }) :
    exec i s = .next { (s.afterDecode i.fields).backToFetch s.pcPlusOne with
      regs := g, index := x, mar := BitVec.ofNat 13 ea, mbr := s.mem.read ea } := by
  have ht := atExecute_ready h i
  have hpc' : (s.atExecute i).pc.toNat < 8191 := by rwa [s.atExecute_pc]
  have hend := executesTo_complete (t := (s.atExecute i).readServed ea) ht.executing hlast ht.nextPC hpc' ht.astate
    (.inr rfl)
  rw [exec_of_read hread h hr hea hcell hend (by decide), ← completed_atExecute h, ← s.atExecute_mem i]
  rfl

/-- A store: E0 writes the word to `M[ea]` through MBR, E1 completes. -/
theorem exec_store (hwrite : WritesMemory s.regs s.index i v) (h : s.Fetched) (hr : s.DecodeReadable i.fields)
    (hea : s.effectiveAddress i.fields = ea) (hcell : ea < 2048) (hpc : s.pc.toNat < 8191) :
    exec i s = .next { (s.afterDecode i.fields).backToFetch s.pcPlusOne with
      mem := s.mem.write ea v, mar := BitVec.ofNat 13 ea, mbr := v } := by
  have ht := atExecute_ready h i
  have hpc' : (s.atExecute i).pc.toNat < 8191 := by rwa [s.atExecute_pc]
  have hlast : executeMicrostep i ((s.atExecute i).writeServed ea v) = ((s.atExecute i).writeServed ea v).complete := by
    cases hwrite <;> rfl
  have hend := executesTo_complete (t := (s.atExecute i).writeServed ea v) ht.executing hlast ht.nextPC hpc' ht.astate
    (.inr rfl)
  rw [exec_of_write hwrite h hr hea hcell hend (by decide), ← completed_atExecute h, ← s.atExecute_mem i]
  rfl

end

/-! ## Loads -/

/-- E1 of LDX, for a word in MBR that fits an index register. -/
theorem ldxMicrostep_last_of_fits {f : Fields} {t : State} (hm : t.micro = 1) (hfits : t.mbr.toNat ≤ 8191) :
    executeMicrostep (.ldx f) t = (t.setIndex f.xfi (BitVec.ofNat 13 t.mbr.toNat)).complete := by
  rw [executeMicrostep, ldxMicrostep, hm]
  exact (congrArg (orRaise · _) (construct_nat_ok (Nat.lt_succ_of_le hfits))).trans (orRaise_ok _ _)

/-- E1 of LDX, for a word in MBR that is too wide. -/
theorem ldxMicrostep_last_too_wide {f : Fields} {t : State} (hm : t.micro = 1) (hwide : 8191 < t.mbr.toNat) :
    executeMicrostep (.ldx f) t = .raise (.construction 13 t.mbr.toNat) := by
  rw [executeMicrostep, ldxMicrostep, hm]
  exact (congrArg (orRaise · _) (construct_nat_error hwide)).trans (orRaise_error _ _)

/-- Settles O21: E1 writes MBR to R[r]. -/
theorem ldrLoadsTheRegister : Obligations.LdrLoadsTheRegister := by
  unfold Obligations.LdrLoadsTheRegister
  intro f s ea h hr hea hcell hpc
  simpa [State.backToFetch] using exec_load (.ldr f) h hr hea hcell hpc rfl

/-- Settles O24: E1 constructs an address of the word in MBR and writes it to X[x]. -/
theorem ldxLoadsTheIndexRegister : Obligations.LdxLoadsTheIndexRegister := by
  unfold Obligations.LdxLoadsTheIndexRegister
  intro f s ea h hr hx hea hcell hfits hpc
  have hlast := ldxMicrostep_last_of_fits (f := f) (t := (s.atExecute (.ldx f)).readServed ea) rfl
    (by simpa using hfits)
  simpa [State.backToFetch] using exec_load (.ldx f hx) h hr hea hcell hpc hlast

/-! ## Stores -/

/-- Settles O22: a store is one write of memory, so that a read after it is by `Memory.read_write`. -/
theorem strStoresTheRegister : Obligations.StrStoresTheRegister := by
  unfold Obligations.StrStoresTheRegister
  intro f s ea h hr hea hcell hpc hwf
  exact ⟨_, exec_store (.str f) h hr hea hcell hpc, rfl, Memory.read_write_same _ _ hwf,
    fun a hne => Memory.read_write_of_ne _ hwf hne⟩

/-- Settles O25: as for STR, and widening keeps the unsigned value. -/
theorem stxStoresTheIndexRegister : Obligations.StxStoresTheIndexRegister := by
  unfold Obligations.StxStoresTheIndexRegister
  intro f s ea x h hr hx hea hcell hpc hwf
  refine ⟨_, exec_store (.stx f x hx) h hr hea hcell hpc, rfl, ?_, fun a hne => Memory.read_write_of_ne _ hwf hne⟩
  calc ((s.mem.write ea (x.setWidth 20)).read ea).toNat
      = (x.setWidth 20).toNat := by rw [Memory.read_write_same _ _ hwf]
    _ = x.toNat := BitVec.toNat_setWidth_of_le (by decide)

/-! ## LDA -/

theorem ldaMicrostep_first {f : Fields} {t : State} {ea : Nat} (hm : t.micro = 0) (hea : t.ea = some ea)
    (hfits : ea < 2 ^ 20) :
    executeMicrostep (.lda f) t = .done (t.setReg f.r (BitVec.ofNat 20 ea)).nextMicro := by
  rw [executeMicrostep, ldaMicrostep, hm]
  refine (withEa_of_some _ hea).trans ?_
  rw [construct_nat_ok hfits, orRaise_ok]

/-- Settles O23: E0 constructs a word of the effective address, which always fits, and E1 completes. -/
theorem ldaLoadsTheAddress : Obligations.LdaLoadsTheAddress := by
  unfold Obligations.LdaLoadsTheAddress
  intro f s ea h hr hea hpc
  have ht := atExecute_ready h (.lda f)
  have hpc' : (s.atExecute (.lda f)).pc.toNat < 8191 := by rwa [s.atExecute_pc]
  have hfirst := ldaMicrostep_first (f := f) (t := s.atExecute (.lda f)) rfl (congrArg some hea)
    (hea ▸ effectiveAddress_lt s f)
  have hlast := executesTo_complete (i := .lda f)
    (t := ((s.atExecute (.lda f)).setReg f.r (BitVec.ofNat 20 ea)).nextMicro) ht.executing rfl ht.nextPC hpc' ht.astate
    (.inl ht.mstate)
  have hend := executesTo_tick ht.executing hfirst (aluPhase_of_none ht.astate) (memoryPhase_of_none ht.mstate)
    ht.executing hlast
  calc exec (.lda f) s
      = .next ((s.atExecute (.lda f)).setReg f.r (BitVec.ofNat 20 ea)).nextMicro.completed :=
        exec_of_executesTo h ⟨nofun, nofun⟩ hr hend (by decide)
    _ = .next { (s.atExecute (.lda f)).completed with
          regs := (s.atExecute (.lda f)).regs.set f.r (BitVec.ofNat 20 ea) } := rfl
    _ = _ := by
      rw [completed_atExecute h, s.atExecute_regs]
      rfl

/-! ## Faults -/

/-- Settles O39: reads and writes alike, by where the address lies. -/
theorem executeAccessOutsideMemoryFaults : Obligations.ExecuteAccessOutsideMemoryFaults := by
  unfold Obligations.ExecuteAccessOutsideMemoryFaults
  intro f s ea h hr hea hlow
  refine ⟨fun i hi hx => ?read, fun v i hi hv hx => ?write⟩
  case read =>
    have hread : ReadsMemory i ∧ i.fields = f := by
      simp only [List.mem_cons, List.not_mem_nil, or_false] at hi
      obtain rfl | rfl | rfl | rfl := hi
      · exact ⟨.ldr f, rfl⟩
      · exact ⟨.amr f, rfl⟩
      · exact ⟨.smr f, rfl⟩
      · exact ⟨.ldx f (hx rfl), rfl⟩
    obtain ⟨hread, rfl⟩ := hread
    exact ⟨exec_read_outside hread h hr hea hlow, exec_read_too_wide hread h hr hea⟩
  case write =>
    have hwrite : WritesMemory s.regs s.index i v ∧ i.fields = f := by
      simp only [List.mem_cons, List.not_mem_nil, or_false] at hi
      obtain rfl | rfl := hi
      · rw [hv rfl]
        exact ⟨.str f, rfl⟩
      · obtain ⟨x, hget, rfl⟩ := hx rfl
        exact ⟨.stx f x hget, rfl⟩
    obtain ⟨hwrite, rfl⟩ := hwrite
    exact ⟨exec_write_outside hwrite h hr hea hlow, exec_write_too_wide hwrite h hr hea⟩

/-- Settles O41: the test of the index field comes first in E0, the width check first in E1. -/
theorem indexRegisterFaults : Obligations.IndexRegisterFaults := by
  unfold Obligations.IndexRegisterFaults
  intro f s h hr
  refine ⟨fun hx => ⟨?ldxZero, ?stxZero⟩, fun hx ea w hea hcell hw hwide => ?tooWide⟩
  case ldxZero =>
    exact exec_raises_at_execute h ⟨nofun, nofun⟩ hr (if_pos hx)
  case stxZero =>
    have hnone : (s.atExecute (.stx f)).index.get f.xfi = none := (IndexRegs.get_eq_none_iff _ _).2 hx
    exact exec_raises_at_execute h ⟨nofun, nofun⟩ hr
      (by simp only [executeMicrostep, stxMicrostep, State.atExecute_micro, hnone])
  case tooWide =>
    have hfault := ldxMicrostep_last_too_wide (f := f) (t := (s.atExecute (.ldx f)).readServed ea) rfl
      (by simpa [hw] using hwide)
    have hend := executesTo_raise (t := (s.atExecute (.ldx f)).readServed ea) (atExecute_ready h _).executing hfault
    rw [exec_of_read (.ldx f hx) h hr hea hcell hend (by decide)]
    simp [State.readServed, hw, State.readPending]

end Sys2Proof.Machine
end

section
/-!
PROOFS. AMR, SMR, AIR and SIR (43_arithmetic.md R107 to R110). Their shared parts are said once, for any microsequence,
so that they serve SMR under both values of `SMR_ORDER` and the other instructions that use the ALU: the ticks of
EXECUTE, the four microsteps that stage a computation (40_cycle.md R83), and the last one, which writes the result to a
register.
-/

namespace Sys2Proof.Machine

open Sys2Proof

/-! ## The ticks of any microsequence -/

/-- As `ExecutesTo`, for the microsequence `exe` under an opcode and fields. -/
def RunsTo (op : BitVec 6) (f : Fields) (exe : State → PhaseResult) (k : Nat) (t u : State) : Prop :=
  ∀ n, toEnd (tickWith (instructionControlUnit op f exe)) (n + k) t = .next u

section

variable {op : BitVec 6} {f : Fields} {exe : State → PhaseResult} {i : Instr} {s t t1 t2 t3 u : State} {k ea : Nat}

theorem instructionControlUnit_of_execute (ht : t.top = .execute) : instructionControlUnit op f exe t = exe t := by
  rw [instructionControlUnit, ht]

/-- A tick of EXECUTE that stays in EXECUTE. -/
theorem runsTo_tick (ht : t.Executing) (h1 : exe t = .done t1) (h2 : aluPhase t1 = .done t2)
    (h3 : memoryPhase t2 = .done t3) (ht3 : t3.Executing) (hrest : RunsTo op f exe k t3 u) :
    RunsTo op f exe (k + 1) t u := by
  obtain ⟨htop, hrun⟩ := ht
  obtain ⟨htop3, hrun3⟩ := ht3
  intro n
  have hcu := (instructionControlUnit_of_execute (op := op) (f := f) htop).trans h1
  rw [← Nat.add_assoc, toEnd_tick_goes_on _ hrun hcu h2 h3 (not_instructionEnded hrun3 (by simp [htop3]))]
  exact hrest n

/-- The tick of a last microstep that completes in `t1` without a jump (R84). -/
theorem runsTo_complete (ht : t.Executing) (h1 : exe t = t1.complete) (hnext : t1.nextPC = none)
    (hpc : t1.pc.toNat < 8191) (h2 : aluPhase (t1.finishAt t1.pcPlusOne) = .done t2) (h3 : memoryPhase t2 = .done u)
    (htop : u.top = .fetch) : RunsTo op f exe 1 t u := by
  obtain ⟨hexecute, hrun⟩ := ht
  intro n
  have hcu := (instructionControlUnit_of_execute (op := op) (f := f) hexecute).trans
    (h1.trans (complete_of_no_jump hnext hpc))
  exact toEnd_tick_ends _ hrun hcu h2 h3 (instructionEnded_of_boundary (by simp [hexecute]) htop)

/-- DECODE takes at most 3 of the 12 ticks that bound an instruction. -/
theorem runInstruction_of_runsTo (h : s.Fetched) (hi : UsesEa i) (hr : s.DecodeReadable i.fields)
    (hexe : RunsTo (Config.opcodeMap i.mnemonic) i.fields exe k (s.atExecute i) u) (hk : k ≤ 9) :
    runInstruction (Config.opcodeMap i.mnemonic) i.fields exe s = .next u := by
  obtain ⟨hair, hsir⟩ := hi
  obtain ⟨d, hd, hdecode⟩ := decode_reaches_execute (Config.opcodeMap i.mnemonic) i.fields exe s h
    (fun heq => hair (opcodeMap_injective heq)) (fun heq => hsir (opcodeMap_injective heq)) hr
  have hsplit : maxTicks = 12 - d - k + k + d := by
    rw [maxTicks]
    omega
  rw [runInstruction, hsplit, hdecode]
  exact hexe _

/-- E0 of a memory read that names a cell. -/
theorem runsTo_of_read (ht : t.ExecuteReady) (hfirst : exe t = t.requestRead) (hm : t.micro = 0) (hea : t.ea = some ea)
    (hcell : ea < 2048) (hrest : RunsTo op f exe k (t.readServed ea) u) : RunsTo op f exe (k + 1) t u :=
  runsTo_tick ht.executing (hfirst.trans (requestRead_of_fits hm ht.mstate hea (by omega)))
    (aluPhase_of_none ht.astate) (memoryPhase_readPending hcell) ht.executing hrest

end

/-! ## Computing with the ALU (R83) -/

section

variable (t : State) (a b : Word) (c : AluControl) (r : Word) (ovf : Option Bool)

/-- After the tick that stages the first operand, in which the memory unit finishes an access of E0. -/
def State.withOperand1 : State := { t with micro := t.micro + 1, mstate := .none, op1 := some a }

/-- After the tick that stages the second operand. -/
def State.withOperands : State := { t with micro := t.micro + 2, mstate := .none, op1 := some a, op2 := some b }

/-- After the tick that stages the control code. -/
def State.withInputs : State :=
  { t with micro := t.micro + 3, mstate := .none, op1 := some a, op2 := some b, ctrl := some c }

/-- In the tick that computes, before the ALU phase. -/
def State.withSignal : State :=
  { t with
    micro := t.micro + 4, mstate := .none, op1 := some a, op2 := some b, ctrl := some c, astate := .startComputation }

/-- After the tick that computes, seen from a state whose ALU is idle: the inputs are consumed (41_alu.md R90). -/
def State.computed : State :=
  { t with
    micro := t.micro + 4, mstate := .none, astate := .finished, result := some r,
    cc := ovf.elim t.cc fun x => ccWithOverflow t.cc x }

end

/-- The four microsteps from `t` on stage `a`, `b` and `c` and signal the ALU. -/
structure StagesAlu (exe : State → PhaseResult) (t : State) (a b : Word) (c : AluControl) : Prop where
  operand1 : exe t = .done { t with micro := t.micro + 1, op1 := some a }
  operand2 : exe (t.withOperand1 a) = .done (t.withOperands a b)
  control : exe (t.withOperands a b) = .done (t.withInputs a b c)
  ready : exe (t.withInputs a b c) = .done (t.withSignal a b c)

section

variable {op : BitVec 6} {f : Fields} {exe : State → PhaseResult} {t u : State} {a b r : Word} {c : AluControl}
  {ovf : Option Bool} {k : Nat} {x : Fin 4}

/-- The ALU phase of the signal computes from the staged inputs. -/
theorem aluPhase_withSignal (hidle : t.AluIdle) (hcompute : aluCompute c a b = .ok (r, ovf)) :
    aluPhase (t.withSignal a b c) = .done (t.computed r ovf) := by
  obtain ⟨-, h1, h2, hc, -⟩ := hidle
  rw [aluPhase_of_ok rfl rfl rfl rfl hcompute, State.storeResult_eq, State.computed, h1, h2, hc]
  rfl

/-- The four ticks that stage a computation end with its result readable. -/
theorem runsTo_of_stagesAlu (ht : t.Executing) (hidle : t.AluIdle) (hmem : t.mstate = .none ∨ t.mstate.busy = true)
    (hstages : StagesAlu exe t a b c) (hcompute : aluCompute c a b = .ok (r, ovf))
    (hrest : RunsTo op f exe k (t.computed r ovf) u) : RunsTo op f exe (k + 4) t u := by
  obtain ⟨h1, h2, h3, h4⟩ := hstages
  obtain ⟨hnone, -⟩ := id hidle
  have hready : RunsTo op f exe (k + 1) (t.withInputs a b c) u :=
    runsTo_tick ht h4 (aluPhase_withSignal hidle hcompute) (memoryPhase_of_none rfl) ht hrest
  have hcontrol : RunsTo op f exe (k + 2) (t.withOperands a b) u :=
    runsTo_tick ht h3 (aluPhase_of_none hnone) (memoryPhase_of_none rfl) ht hready
  have hoperand2 : RunsTo op f exe (k + 3) (t.withOperand1 a) u :=
    runsTo_tick ht h2 (aluPhase_of_none hnone) (memoryPhase_of_none rfl) ht hcontrol
  exact runsTo_tick ht h1 (aluPhase_of_none hnone) (memoryPhase_of_served hmem) ht hoperand2

/-- Completion after the result was written to `R[x]`; the ALU phase drops the result (41_alu.md R90, R92). -/
theorem aluPhase_finish_computed (hidle : t.AluIdle) (p : Addr) :
    aluPhase (((t.computed r ovf).setReg x r).finishAt p) = .done { t.finishAt p with
      regs := t.regs.set x r, cc := ovf.elim t.cc fun y => ccWithOverflow t.cc y, mstate := .none } := by
  obtain ⟨hastate, -, -, -, hresult⟩ := hidle
  have hdrop : t.finishAt p = { t.finishAt p with astate := .none, result := none } := by
    rw [State.finishAt, hastate, hresult]
  rw [hdrop]
  exact aluPhase_of_finished rfl

/-- The last tick, which writes the result to `R[x]` and completes. -/
theorem runsTo_of_writeResult (ht : t.Executing) (hidle : t.AluIdle) (hnext : t.nextPC = none)
    (hpc : t.pc.toNat < 8191) (hlast : exe (t.computed r ovf) = ((t.computed r ovf).setReg x r).complete) :
    RunsTo op f exe 1 (t.computed r ovf) { t.completed with
      regs := t.regs.set x r, cc := ovf.elim t.cc fun y => ccWithOverflow t.cc y } :=
  runsTo_complete (t := t.computed r ovf) ht hlast hnext hpc (aluPhase_finish_computed hidle _)
    (memoryPhase_of_none rfl) rfl

/-- An instruction that computes with the ALU into a register: five ticks. -/
theorem runsTo_of_compute (ht : t.Executing) (hidle : t.AluIdle) (hnext : t.nextPC = none) (hpc : t.pc.toNat < 8191)
    (hmem : t.mstate = .none ∨ t.mstate.busy = true) (hstages : StagesAlu exe t a b c)
    (hcompute : aluCompute c a b = .ok (r, ovf))
    (hlast : exe (t.computed r ovf) = ((t.computed r ovf).setReg x r).complete) :
    RunsTo op f exe 5 t { t.completed with
      regs := t.regs.set x r, cc := ovf.elim t.cc fun y => ccWithOverflow t.cc y } :=
  runsTo_of_stagesAlu ht hidle hmem hstages hcompute (runsTo_of_writeResult ht hidle hnext hpc hlast)

end

theorem aluCompute_add (a b : Word) : aluCompute .add a b = .ok (a + b, some (addOverflow a b (a + b))) := by
  rw [aluCompute, aluAdd_eq_add]

theorem aluCompute_subtract_eq_sub (a b : Word) :
    aluCompute .subtract a b = .ok (a - b, some (subOverflow a b (a - b))) := by
  rw [aluCompute, aluSubtract_eq_sub]

/-! ## AMR and SMR -/

section

variable {op : BitVec 6} {f : Fields} {i : Instr} {exe : State → PhaseResult} {s t : State} {a b r : Word}
  {c : AluControl} {ovf : Bool} {ea : Nat} {x : Fin 4}

@[simp] theorem State.atExecute_reg (s : State) (i : Instr) (x : Fin 4) : (s.atExecute i).reg x = s.reg x := by
  rw [State.reg, s.atExecute_regs, State.reg]

@[simp] theorem State.atExecute_cc (s : State) (i : Instr) : (s.atExecute i).cc = s.cc := s.afterDecode_cc _

/-- DECODE leaves the ALU idle. -/
theorem atExecute_aluIdle (h : s.Fetched) (i : Instr) : (s.atExecute i).AluIdle := by
  obtain ⟨-, -, -, -, -, -, -, -, ha, h1, h2, hc, hr⟩ := h
  exact ⟨(s.afterDecode_astate _).trans ha, (s.afterDecode_op1 _).trans h1, (s.afterDecode_op2 _).trans h2,
    (s.afterDecode_ctrl _).trans hc, (s.afterDecode_result _).trans hr⟩

/-- E0 reads `M[ea]`, the other five microsteps compute with the ALU into `R[x]`. -/
theorem runsTo_of_read_compute (ht : t.ExecuteReady) (hidle : t.AluIdle) (hm : t.micro = 0) (hea : t.ea = some ea)
    (hcell : ea < 2048) (hpc : t.pc.toNat < 8191) (hfirst : exe t = t.requestRead)
    (hstages : StagesAlu exe (t.readServed ea) a b c) (hcompute : aluCompute c a b = .ok (r, some ovf))
    (hlast : exe ((t.readServed ea).computed r (some ovf)) =
      (((t.readServed ea).computed r (some ovf)).setReg x r).complete) :
    RunsTo op f exe 6 t { t.completed with
      regs := t.regs.set x r, cc := ccWithOverflow t.cc ovf, mar := BitVec.ofNat 13 ea, mbr := t.mem.read ea } :=
  runsTo_of_read ht hfirst hm hea hcell
    (runsTo_of_compute (t := t.readServed ea) ht.executing hidle ht.nextPC hpc (.inr rfl) hstages hcompute hlast)

/-- A microsequence that reads `M[ea]` in E0 and computes with the ALU into `R[x]` from E1 on. -/
theorem runInstruction_of_read_compute (h : s.Fetched) (hi : UsesEa i) (hr : s.DecodeReadable i.fields)
    (hea : s.effectiveAddress i.fields = ea) (hcell : ea < 2048) (hpc : s.pc.toNat < 8191)
    (hfirst : exe (s.atExecute i) = (s.atExecute i).requestRead)
    (hstages : StagesAlu exe ((s.atExecute i).readServed ea) a b c) (hcompute : aluCompute c a b = .ok (r, some ovf))
    (hlast : exe (((s.atExecute i).readServed ea).computed r (some ovf)) =
      ((((s.atExecute i).readServed ea).computed r (some ovf)).setReg x r).complete) :
    runInstruction (Config.opcodeMap i.mnemonic) i.fields exe s =
      .next { (s.afterDecode i.fields).backToFetch s.pcPlusOne with
        regs := s.regs.set x r, cc := ccWithOverflow s.cc ovf, mar := BitVec.ofNat 13 ea, mbr := s.mem.read ea } := by
  have ht := atExecute_ready h i
  have hpc' : (s.atExecute i).pc.toNat < 8191 := by rwa [s.atExecute_pc]
  have hend := runsTo_of_read_compute (op := Config.opcodeMap i.mnemonic) (f := i.fields) ht (atExecute_aluIdle h i) rfl
    (congrArg some hea) hcell hpc' hfirst hstages hcompute hlast
  rw [runInstruction_of_runsTo h hi hr hend (by decide), completed_atExecute h, s.atExecute_mem,
    s.atExecute_regs, s.atExecute_cc]

end

section

variable (f : Fields) (t : State) (ea : Nat)

theorem amr_stagesAlu : StagesAlu (amrMicrostep f) (t.readServed ea) (t.mem.read ea) (t.reg f.r) .add :=
  ⟨rfl, rfl, rfl, rfl⟩

theorem smr_stagesAlu_memMinusReg :
    StagesAlu (smrMicrostep .memMinusReg f) (t.readServed ea) (t.mem.read ea) (t.reg f.r) .subtract :=
  ⟨rfl, rfl, rfl, rfl⟩

theorem smr_stagesAlu_regMinusMem :
    StagesAlu (smrMicrostep .regMinusMem f) (t.readServed ea) (t.reg f.r) (t.mem.read ea) .subtract :=
  ⟨rfl, rfl, rfl, rfl⟩

end

/-- Settles O26: the operands are MBR, which holds `M[ea]`, and R[r]. -/
theorem amrAddsMemoryToTheRegister : Obligations.AmrAddsMemoryToTheRegister := by
  unfold Obligations.AmrAddsMemoryToTheRegister
  rintro f s ea m h hr hea hcell rfl hpc
  have hstages := amr_stagesAlu f (s.atExecute (.amr f)) ea
  rw [State.atExecute_reg, State.atExecute_mem] at hstages
  exact runInstruction_of_read_compute (i := .amr f) h ⟨nofun, nofun⟩ hr hea hcell hpc rfl hstages
    (aluCompute_add _ _) rfl

/-- Settles O27: the two orders stage the same operands the other way round. -/
theorem smrSubtractsInTheConfiguredOrder : Obligations.SmrSubtractsInTheConfiguredOrder := by
  unfold Obligations.SmrSubtractsInTheConfiguredOrder
  rintro f s ea m h hr hea hcell rfl hpc
  have hconfigured := smr_stagesAlu_memMinusReg f (s.atExecute (.smr f)) ea
  have hother := smr_stagesAlu_regMinusMem f (s.atExecute (.smr f)) ea
  rw [State.atExecute_reg, State.atExecute_mem] at hconfigured hother
  exact ⟨runInstruction_of_read_compute (i := .smr f) h ⟨nofun, nofun⟩ hr hea hcell hpc rfl hconfigured
      (aluCompute_subtract_eq_sub _ _) rfl,
    runInstruction_of_read_compute (i := .smr f) h ⟨nofun, nofun⟩ hr hea hcell hpc rfl hother
      (aluCompute_subtract_eq_sub _ _) rfl⟩

/-! ## AIR and SIR -/

/-- The state at EXECUTE µ0 of AIR and SIR, which have no effective address (R78). -/
def State.atImmediate (s : State) (op : BitVec 6) (f : Fields) : State :=
  { s with dec := some ⟨op, f, .none⟩, ea := none, top := .execute, micro := 0 }

section

variable {op : BitVec 6} {f : Fields} {exe : State → PhaseResult} {s u : State} {a b r : Word} {c : AluControl}
  {ovf : Bool} {k : Nat} {x : Fin 4}

/-- DECODE of AIR and SIR is one tick, whatever the index field and the indirect bit hold. -/
theorem runInstruction_of_runsTo_immediate (h : s.Fetched)
    (hop : op = Config.opcodeMap .AIR ∨ op = Config.opcodeMap .SIR) (hexe : RunsTo op f exe k (s.atImmediate op f) u)
    (hk : k ≤ 11) : runInstruction op f exe s = .next u := by
  obtain ⟨hhalted, hfault, htop, hmicro, -, -, -, hmstate, hastate, -⟩ := h
  have hrun : s.stopped = false := (stopped_eq_false_iff s).2 ⟨hhalted, hfault⟩
  have hcu : instructionControlUnit op f exe s = .done (s.atImmediate op f) := by
    rw [instructionControlUnit_of_decode htop, decodeMicrostep_start hmicro, decodeStart_of_immediate hop]
    rfl
  have hsplit : maxTicks = 11 - k + k + 1 := by
    rw [maxTicks]
    omega
  rw [runInstruction, hsplit, toEnd_tick_goes_on _ hrun hcu (aluPhase_of_none hastate) (memoryPhase_of_none hmstate)
    (not_instructionEnded hrun nofun)]
  exact hexe _

theorem completed_atImmediate (h : s.Fetched) : (s.atImmediate op f).completed = s.backToFetch s.pcPlusOne := by
  obtain ⟨-, -, -, -, hdec, hea, hnext, hmstate, -⟩ := h
  rw [State.backToFetch, hdec, hea, hnext, hmstate]
  rfl

/-- AIR or SIR, computing into `R[x]`. -/
theorem runInstruction_of_immediate_compute (h : s.Fetched)
    (hop : op = Config.opcodeMap .AIR ∨ op = Config.opcodeMap .SIR) (hpc : s.pc.toNat < 8191)
    (hstages : StagesAlu exe (s.atImmediate op f) a b c) (hcompute : aluCompute c a b = .ok (r, some ovf))
    (hlast : exe ((s.atImmediate op f).computed r (some ovf)) =
      (((s.atImmediate op f).computed r (some ovf)).setReg x r).complete) :
    runInstruction op f exe s =
      .next { s.backToFetch s.pcPlusOne with regs := s.regs.set x r, cc := ccWithOverflow s.cc ovf } := by
  obtain ⟨hhalted, hfault, -, -, -, -, hnext, hmstate, hidle⟩ := id h
  have hrun : s.stopped = false := (stopped_eq_false_iff s).2 ⟨hhalted, hfault⟩
  have hend := runsTo_of_compute (op := op) (f := f) (t := s.atImmediate op f) ⟨rfl, hrun⟩ hidle hnext hpc
    (.inl hmstate) hstages hcompute hlast
  rw [runInstruction_of_runsTo_immediate h hop hend (by decide), completed_atImmediate h]
  rfl

end

theorem air_stagesAlu (s : State) (op : BitVec 6) (f : Fields) :
    StagesAlu (airMicrostep .zero f) (s.atImmediate op f) (s.reg f.r) (f.addr.setWidth 20) .add :=
  ⟨rfl, rfl, rfl, rfl⟩

theorem sir_stagesAlu (s : State) (op : BitVec 6) (f : Fields) :
    StagesAlu (sirMicrostep .zero f) (s.atImmediate op f) (s.reg f.r) (f.addr.setWidth 20) .subtract :=
  ⟨rfl, rfl, rfl, rfl⟩

/-- Settles O28: the operands are R[r] and the address field widened by zeros. -/
theorem immediateArithmeticUsesTheAddressField : Obligations.ImmediateArithmeticUsesTheAddressField := by
  unfold Obligations.ImmediateArithmeticUsesTheAddressField
  rintro f s imm h rfl hpc
  exact ⟨runInstruction_of_immediate_compute h (.inl rfl) hpc (air_stagesAlu s _ f) (aluCompute_add _ _) rfl,
    runInstruction_of_immediate_compute h (.inr rfl) hpc (sir_stagesAlu s _ f) (aluCompute_subtract_eq_sub _ _) rfl⟩

end Sys2Proof.Machine
end

section
/-!
PROOFS. Control transfer (44_control_transfer.md R111 to R119). A microstep that transfers goes back to FETCH with PC at
the target, or raises the error of a target above 8191 and writes nothing (R111).
-/

namespace Sys2Proof.Machine

open Sys2Proof

/-! ## The last tick of an instruction -/

section

variable {op : BitVec 6} {f : Fields} {exe : State → PhaseResult} {i : Instr} {s t t1 t2 u : State} {p : Addr}
  {r : Word} {ovf : Option Bool} {x : Fin 4} {e : FaultKind}

/-- A tick of EXECUTE that goes back to FETCH. -/
theorem runsTo_end (ht : t.Executing) (h1 : exe t = .done t1) (h2 : aluPhase t1 = .done t2)
    (h3 : memoryPhase t2 = .done u) (htop : u.top = .fetch) : RunsTo op f exe 1 t u := by
  obtain ⟨hexecute, hrun⟩ := ht
  intro n
  have hcu := (instructionControlUnit_of_execute (op := op) (f := f) hexecute).trans h1
  exact toEnd_tick_ends _ hrun hcu h2 h3 (instructionEnded_of_boundary (by simp [hexecute]) htop)

/-- A microstep of EXECUTE that raises a fault. -/
theorem runsTo_raise (ht : t.Executing) (h1 : exe t = .raise e) :
    RunsTo op f exe 1 t (t.takeFault e .controlUnit) := by
  obtain ⟨hexecute, hrun⟩ := ht
  intro n
  exact toEnd_tick_raises hrun ((instructionControlUnit_of_execute hexecute).trans h1)

/-- Going back to FETCH clears the latches that DECODE has filled. -/
theorem finishAt_atExecute (h : s.Fetched) (i : Instr) (p : Addr) :
    (s.atExecute i).finishAt p = (s.afterDecode i.fields).backToFetch p := by
  have hidle := (atExecute_ready h i).mstate
  calc (s.atExecute i).finishAt p
      = { (s.atExecute i).completed with pc := p } := by rw [State.completed, ← hidle]; rfl
    _ = (s.afterDecode i.fields).backToFetch p := by rw [completed_atExecute h]; rfl

/-- An instruction of one microstep that goes back to FETCH, with the registers `g`. -/
theorem runInstruction_of_finish {g : GeneralRegs} (h : s.Fetched) (hi : UsesEa i) (hr : s.DecodeReadable i.fields)
    (hexe : exe (s.atExecute i) = .done { (s.atExecute i).finishAt p with regs := g }) :
    runInstruction (Config.opcodeMap i.mnemonic) i.fields exe s =
      .next { (s.afterDecode i.fields).backToFetch p with regs := g } := by
  have ht := atExecute_ready h i
  have hend : RunsTo (Config.opcodeMap i.mnemonic) i.fields exe 1 (s.atExecute i)
      { (s.atExecute i).finishAt p with regs := g } :=
    runsTo_end ht.executing hexe (aluPhase_of_none ht.astate) (memoryPhase_of_none ht.mstate) rfl
  rw [runInstruction_of_runsTo h hi hr hend (by decide), finishAt_atExecute h]

/-- As above, when no register is written. -/
theorem exec_of_finish (h : s.Fetched) (hi : UsesEa i) (hr : s.DecodeReadable i.fields)
    (hexe : executeMicrostep i (s.atExecute i) = .done ((s.atExecute i).finishAt p)) :
    exec i s = .next ((s.afterDecode i.fields).backToFetch p) := by
  rw [exec_eq_runInstruction, runInstruction_of_finish h hi hr hexe, s.atExecute_regs, ← s.afterDecode_regs i.fields]
  rfl

/-- The last tick of an instruction that writes its result to `R[x]` and goes back to FETCH with PC at `p`. -/
theorem runsTo_of_writeResult_finish (ht : t.ExecuteReady) (hidle : t.AluIdle)
    (hlast : exe (t.computed r ovf) = .done (((t.computed r ovf).setReg x r).finishAt p)) :
    RunsTo op f exe 1 (t.computed r ovf) { t.finishAt p with
      regs := t.regs.set x r, cc := ovf.elim t.cc fun y => ccWithOverflow t.cc y } := by
  have hend := runsTo_end (op := op) (f := f) (t := t.computed r ovf) ht.executing hlast
    (aluPhase_finish_computed hidle p) (memoryPhase_of_none rfl) rfl
  rw [← ht.mstate] at hend
  exact hend

end

/-! ## Transfers to `ea` -/

section

variable {f : Fields} {i : Instr} {s t : State} {taken : Bool} {ea : Nat} {g : GeneralRegs} {cc : BitVec 4}

theorem jumpWhen_of_fits (hea : t.ea = some ea) (hfits : ea ≤ 8191) :
    jumpWhen true t = .done (t.finishAt (BitVec.ofNat 13 ea)) := by
  rw [jumpWhen, if_pos rfl, withEa_of_some _ hea, jumpTo_of_fits _ (Nat.lt_succ_of_le hfits), complete_of_jump rfl]
  rfl

theorem jumpWhen_too_wide (hea : t.ea = some ea) (hwide : 8191 < ea) :
    jumpWhen true t = .raise (.construction 13 ea) := by
  rw [jumpWhen, if_pos rfl, withEa_of_some _ hea, jumpTo_too_wide _ hwide]

theorem jumpWhen_not_taken (t : State) : jumpWhen false t = t.complete := rfl

/-- The instructions of one microstep that only transfer to `ea`, with their tests of the registers and of CC (R112 to
R115, R119). -/
inductive JumpsWhen (g : GeneralRegs) (cc : BitVec 4) : Instr → Bool → Prop
  | jz (f : Fields) : JumpsWhen g cc (.jz f) (decide (g.get f.r = 0))
  | jne (f : Fields) : JumpsWhen g cc (.jne f) (decide (g.get f.r ≠ 0))
  | jcc (f : Fields) : JumpsWhen g cc (.jcc f) (ccBit cc f.cc)
  | jge (f : Fields) : JumpsWhen g cc (.jge f) (decide (0 ≤ (g.get f.r).toInt))
  | jmp (f : Fields) : JumpsWhen g cc (.jmp f) true

theorem JumpsWhen.usesEa (h : JumpsWhen g cc i taken) : UsesEa i := by
  cases h <;> exact ⟨nofun, nofun⟩

/-- DECODE changes nothing that a jump tests. -/
theorem JumpsWhen.atExecute (h : JumpsWhen s.regs s.cc i taken) :
    JumpsWhen (s.atExecute i).regs (s.atExecute i).cc i taken := by
  rwa [s.atExecute_regs, s.atExecute_cc]

/-- The clear sign bit that JGE tests is the signed value's being at least 0 (R119). -/
theorem not_msb_eq (v : Word) : (!v.msb) = decide (0 ≤ v.toInt) := by
  rw [BitVec.msb_eq_toInt, ← decide_not, decide_eq_decide, not_lt]

theorem JumpsWhen.executeMicrostep_eq (h : JumpsWhen t.regs t.cc i taken) (hm : t.micro = 0) :
    executeMicrostep i t = jumpWhen taken t := by
  cases h with
  | jz f =>
    have htest : ((t.reg f.r).toNat == 0) = decide (t.reg f.r = 0) := by
      rw [beq_eq_decide, decide_eq_decide]
      exact (BitVec.toNat_eq (y := 0#20)).symm
    rw [executeMicrostep, jzMicrostep, hm]
    exact congrArg (jumpWhen · t) htest
  | jne f =>
    have htest : ((t.reg f.r).toNat != 0) = decide (t.reg f.r ≠ 0) := by
      rw [bne, beq_eq_decide, ← decide_not, decide_eq_decide]
      exact not_congr (BitVec.toNat_eq (y := 0#20)).symm
    rw [executeMicrostep, jneMicrostep, hm]
    exact congrArg (jumpWhen · t) htest
  | jcc f => simp only [executeMicrostep, jccMicrostep, hm]
  | jge f =>
    rw [executeMicrostep, jgeMicrostep, hm]
    exact congrArg (jumpWhen · t) (not_msb_eq _)
  | jmp f => simp only [executeMicrostep, jmpMicrostep, hm]

/-- A jump that is taken to a target of 13 bits. -/
theorem exec_jump_of_fits (hjump : JumpsWhen s.regs s.cc i true) (h : s.Fetched) (hr : s.DecodeReadable i.fields)
    (hea : s.effectiveAddress i.fields = ea) (hfits : ea ≤ 8191) :
    exec i s = .next ((s.afterDecode i.fields).backToFetch (BitVec.ofNat 13 ea)) :=
  exec_of_finish h hjump.usesEa hr
    ((hjump.atExecute.executeMicrostep_eq rfl).trans (jumpWhen_of_fits (congrArg some hea) hfits))

/-- A jump that is not taken. -/
theorem exec_jump_not_taken (hjump : JumpsWhen s.regs s.cc i false) (h : s.Fetched) (hr : s.DecodeReadable i.fields)
    (hpc : s.pc.toNat < 8191) : exec i s = .next ((s.afterDecode i.fields).backToFetch s.pcPlusOne) := by
  have hcomplete := complete_of_no_jump (atExecute_ready h i).nextPC (by rwa [s.atExecute_pc])
  rw [s.atExecute_pc] at hcomplete
  exact exec_of_finish h hjump.usesEa hr
    ((hjump.atExecute.executeMicrostep_eq rfl).trans ((jumpWhen_not_taken _).trans hcomplete))

/-- The four conditional jumps with the outcomes of their tests, as the statements list them. -/
def State.conditionalJumps (s : State) (f : Fields) : List (Instr × Bool) :=
  [(.jz f, decide (s.reg f.r = 0)), (.jne f, decide (s.reg f.r ≠ 0)), (.jcc f, ccBit s.cc f.cc),
    (.jge f, decide (0 ≤ (s.reg f.r).toInt))]

theorem jumpsWhen_of_mem (hi : (i, taken) ∈ s.conditionalJumps f) : JumpsWhen s.regs s.cc i taken ∧ i.fields = f := by
  simp only [State.conditionalJumps, List.mem_cons, List.not_mem_nil, or_false, Prod.mk.injEq] at hi
  obtain ⟨rfl, rfl⟩ | ⟨rfl, rfl⟩ | ⟨rfl, rfl⟩ | ⟨rfl, rfl⟩ := hi
  · exact ⟨.jz f, rfl⟩
  · exact ⟨.jne f, rfl⟩
  · exact ⟨.jcc f, rfl⟩
  · exact ⟨.jge f, rfl⟩

end

/-- Settles O29: the target is tested only when the jump is taken. -/
theorem conditionalJumpsTestTheRegisterOrFlag : Obligations.ConditionalJumpsTestTheRegisterOrFlag := by
  unfold Obligations.ConditionalJumpsTestTheRegisterOrFlag
  intro f s ea h hr hea i taken hi
  obtain ⟨hjump, rfl⟩ := jumpsWhen_of_mem (s := s) hi
  refine ⟨?taken, ?notTaken⟩
  case taken =>
    rintro rfl
    exact exec_jump_of_fits hjump h hr hea
  case notTaken =>
    rintro rfl
    exact exec_jump_not_taken hjump h hr

/-- Settles O30: a jump that is always taken. -/
theorem jmpGoesToTheAddress : Obligations.JmpGoesToTheAddress := by
  unfold Obligations.JmpGoesToTheAddress
  intro f s ea h hr hea hfits
  exact exec_jump_of_fits (.jmp f) h hr hea hfits

/-! ## JSR and RFS -/

section

variable {f : Fields} {t : State} {ea : Nat} {link : Fin 4} {writesR0 : Bool} {ext : ImmExt}

theorem jsrMicrostep_of_fits (hm : t.micro = 0) (hea : t.ea = some ea) (hfits : ea ≤ 8191) :
    jsrMicrostep link t = .done { t.finishAt (BitVec.ofNat 13 ea) with
      regs := t.regs.set link (BitVec.ofNat 20 (t.pc.toNat + 1)) } := by
  have hreturn : construct 20 (t.pc.toNat + 1) = .ok (BitVec.ofNat 20 (t.pc.toNat + 1)) :=
    construct_nat_ok (w := 20) (n := t.pc.toNat + 1) (by have := t.pc.isLt; omega)
  rw [jsrMicrostep, hm]
  refine (withEa_of_some _ hea).trans ?_
  rw [jumpTo_of_fits _ (Nat.lt_succ_of_le hfits), hreturn, orRaise_ok, complete_of_jump rfl]
  rfl

theorem jsrMicrostep_too_wide (hm : t.micro = 0) (hea : t.ea = some ea) (hwide : 8191 < ea) :
    jsrMicrostep link t = .raise (.construction 13 ea) := by
  rw [jsrMicrostep, hm]
  refine (withEa_of_some _ hea).trans ?_
  rw [jumpTo_too_wide _ hwide]

theorem rfsMicrostep_of_fits (hm : t.micro = 0) (hfits : (t.reg link).toNat ≤ 8191) :
    rfsMicrostep link writesR0 ext f t = .done { t.finishAt (BitVec.ofNat 13 (t.reg link).toNat) with
      regs := if writesR0 then t.regs.set 0 (immediate ext f) else t.regs } := by
  rw [rfsMicrostep, hm]
  refine (jumpTo_of_fits _ (Nat.lt_succ_of_le hfits)).trans ?_
  cases writesR0 with
  | false => exact (if_neg nofun).trans (complete_of_jump rfl)
  | true => exact (if_pos rfl).trans (complete_of_jump rfl)

theorem rfsMicrostep_too_wide (hm : t.micro = 0) (hwide : 8191 < (t.reg link).toNat) :
    rfsMicrostep link writesR0 ext f t = .raise (.construction 13 (t.reg link).toNat) := by
  rw [rfsMicrostep, hm]
  exact jumpTo_too_wide _ hwide

end

/-- Settles O31: `exec` is the case of the configured link register. -/
theorem jsrSavesTheReturnAddress : Obligations.JsrSavesTheReturnAddress := by
  unfold Obligations.JsrSavesTheReturnAddress
  intro f s ea h hr hea hfits
  have hlink : ∀ link : Fin 4, runInstruction (Config.opcodeMap .JSR) f (jsrMicrostep link) s =
      .next { (s.afterDecode f).backToFetch (BitVec.ofNat 13 ea) with
        regs := s.regs.set link (BitVec.ofNat 20 (s.pc.toNat + 1)) } := by
    intro link
    have hexe := jsrMicrostep_of_fits (t := s.atExecute (.jsr f)) (link := link) rfl (congrArg some hea) hfits
    rw [s.atExecute_pc, s.atExecute_regs] at hexe
    exact runInstruction_of_finish (i := .jsr f) h ⟨nofun, nofun⟩ hr hexe
  exact ⟨hlink 3, hlink⟩

/-- Settles O32: `exec` is the case of the configured link register that writes R0. -/
theorem rfsReturnsThroughTheLinkRegister : Obligations.RfsReturnsThroughTheLinkRegister := by
  unfold Obligations.RfsReturnsThroughTheLinkRegister
  intro f s h hr
  have hlink : ∀ (link : Fin 4) (writesR0 : Bool), (s.reg link).toNat ≤ 8191 →
      runInstruction (Config.opcodeMap .RFS) f (rfsMicrostep link writesR0 .zero f) s =
        .next { (s.afterDecode f).backToFetch (BitVec.ofNat 13 (s.reg link).toNat) with
          regs := if writesR0 then s.regs.set 0 (f.addr.setWidth 20) else s.regs } := by
    intro link writesR0 hfits
    have hexe := rfsMicrostep_of_fits (t := s.atExecute (.rfs f)) (link := link) (writesR0 := writesR0) (ext := .zero)
      (f := f) rfl (by rwa [State.atExecute_reg])
    rw [State.atExecute_reg, s.atExecute_regs] at hexe
    exact runInstruction_of_finish (i := .rfs f) h ⟨nofun, nofun⟩ hr hexe
  exact ⟨hlink 3 true, hlink⟩

/-! ## SOB (R118) -/

/-- The only word that 1 cannot be subtracted from is the least one, -2^19 (41_alu.md R95). -/
theorem subOverflow_one (a : Word) : subOverflow a 1 (a - 1) = decide (a = 0x80000) := by
  have hlow := BitVec.le_toInt a
  have hhigh := BitVec.toInt_lt (x := a)
  have hleast : (0x80000 : Word).toInt = -524288 := by decide
  have hone : (1 : Word).toInt = 1 := by decide
  rw [Bool.eq_iff_iff, subOverflow_sub, ssubOverflow_iff, decide_eq_true_iff, ← BitVec.toInt_inj, hleast, hone]
  omega

section

variable {f : Fields} {s u : State} {p : Addr} {ea : Nat}

/-- E1 of SOB constructs its operand 1, which always fits. -/
theorem sobMicrostep_operand2 {t : State} (f : Fields) (hm : t.micro = 1) :
    sobMicrostep f t = .done (t.setOperand2 1).nextMicro := by
  have hone : construct 20 1 = .ok 1 := construct_nat_ok (w := 20) (n := 1) (by decide)
  rw [sobMicrostep, hm]
  exact (congrArg (orRaise · _) hone).trans (orRaise_ok _ _)

theorem sob_stagesAlu {t : State} (f : Fields) (hm : t.micro = 0) :
    StagesAlu (sobMicrostep f) t (t.reg f.r) 1 .subtract := by
  cases t
  cases hm
  exact ⟨rfl, sobMicrostep_operand2 f rfl, rfl, rfl⟩

/-- The state before E4, as four ticks of the ALU leave it. -/
theorem computed_eq_sobDecided (h : s.Fetched) (f : Fields) :
    (s.atExecute (.sob f)).computed (s.reg f.r - 1) (some (subOverflow (s.reg f.r) 1 (s.reg f.r - 1))) =
      s.sobDecided f := by
  have hidle := (atExecute_ready h (.sob f)).mstate
  rw [subOverflow_one, State.computed, State.sobDecided, ← hidle, ← s.atExecute_cc (.sob f)]
  rfl

/-- SOB ends where its last microstep ends. -/
theorem exec_sob_of_last (h : s.Fetched) (hr : s.DecodeReadable f)
    (hlast : RunsTo (Config.opcodeMap .SOB) f (sobMicrostep f) 1 (s.sobDecided f) u) : exec (.sob f) s = .next u := by
  have ht := atExecute_ready h (.sob f)
  rw [← computed_eq_sobDecided h] at hlast
  have hstages := sob_stagesAlu (t := s.atExecute (.sob f)) f rfl
  rw [State.atExecute_reg] at hstages
  have hend := runsTo_of_stagesAlu ht.executing (atExecute_aluIdle h _) (.inl ht.mstate) hstages
    (aluCompute_subtract_eq_sub _ _) hlast
  exact runInstruction_of_runsTo (i := .sob f) h ⟨nofun, nofun⟩ hr hend (by decide)

/-- SOB when its last microstep writes the difference and goes back to FETCH. -/
theorem exec_sob_of_finish (h : s.Fetched) (hr : s.DecodeReadable f)
    (hexe : sobMicrostep f (s.sobDecided f) = .done (((s.sobDecided f).setReg f.r (s.reg f.r - 1)).finishAt p)) :
    exec (.sob f) s =
      .next { (s.afterDecode f).backToFetch p with
        regs := s.regs.set f.r (s.reg f.r - 1), cc := ccWithOverflow s.cc (decide (s.reg f.r = 0x80000)) } := by
  have ht := atExecute_ready h (.sob f)
  rw [← computed_eq_sobDecided h] at hexe
  have hlast := runsTo_of_writeResult_finish (op := Config.opcodeMap .SOB) (f := f) ht (atExecute_aluIdle h _) hexe
  rw [computed_eq_sobDecided h, finishAt_atExecute h, subOverflow_one, s.atExecute_regs, s.atExecute_cc] at hlast
  exact exec_sob_of_last h hr hlast

theorem sobMicrostep_last (f : Fields) (s : State) :
    sobMicrostep f (s.sobDecided f) =
      if 0 < (s.reg f.r - 1).toInt then
        (s.sobDecided f).jumpTo (s.effectiveAddress f) fun t => (t.setReg f.r (s.reg f.r - 1)).complete
      else ((s.sobDecided f).setReg f.r (s.reg f.r - 1)).complete := rfl

theorem sobMicrostep_last_of_fits (hpos : 0 < (s.reg f.r - 1).toInt) (hea : s.effectiveAddress f = ea)
    (hfits : ea ≤ 8191) :
    sobMicrostep f (s.sobDecided f) =
      .done (((s.sobDecided f).setReg f.r (s.reg f.r - 1)).finishAt (BitVec.ofNat 13 ea)) := by
  rw [sobMicrostep_last, if_pos hpos, hea, jumpTo_of_fits _ (Nat.lt_succ_of_le hfits), complete_of_jump rfl]
  rfl

theorem sobMicrostep_last_too_wide (hpos : 0 < (s.reg f.r - 1).toInt) (hea : s.effectiveAddress f = ea)
    (hwide : 8191 < ea) : sobMicrostep f (s.sobDecided f) = .raise (.construction 13 ea) := by
  rw [sobMicrostep_last, if_pos hpos, hea, jumpTo_too_wide _ hwide]

theorem sobMicrostep_last_not_taken (hneg : (s.reg f.r - 1).toInt ≤ 0) :
    sobMicrostep f (s.sobDecided f) = ((s.sobDecided f).setReg f.r (s.reg f.r - 1)).complete := by
  rw [sobMicrostep_last, if_neg hneg.not_gt]

@[simp] theorem State.sobDecided_pc (s : State) (f : Fields) : (s.sobDecided f).pc = s.pc := s.atExecute_pc _

theorem sobDecided_nextPC (h : s.Fetched) (f : Fields) : (s.sobDecided f).nextPC = none := (atExecute_ready h _).nextPC

end

/-- Settles O33: E4 writes the difference whichever way it goes on. -/
theorem sobDecrementsAndBranchesWhilePositive : Obligations.SobDecrementsAndBranchesWhilePositive := by
  unfold Obligations.SobDecrementsAndBranchesWhilePositive
  rintro f s ea v h hr hea rfl
  refine ⟨fun hpos hfits => ?taken, fun hneg hpc => ?notTaken⟩
  case taken => exact exec_sob_of_finish h hr (sobMicrostep_last_of_fits hpos hea hfits)
  case notTaken =>
    have hcomplete := complete_of_no_jump (s := (s.sobDecided f).setReg f.r (s.reg f.r - 1)) (sobDecided_nextPC h f)
      (by simpa using hpc)
    rw [State.setReg_pc, s.sobDecided_pc] at hcomplete
    exact exec_sob_of_finish h hr ((sobMicrostep_last_not_taken hneg).trans hcomplete)

end Sys2Proof.Machine
end

section
/-!
PROOFS. A PC that needs more than 13 bits (10_state.md R21; 44_control_transfer.md R111; 60_exceptions.md R128), and the
JCC of a run (44_control_transfer.md R114). Completion at PC 8191 is said once for each shape of microsequence: one that
completes at once, one that accesses memory first, and one that computes with the ALU.
-/

namespace Sys2Proof.Machine

open Sys2Proof

/-! ## Completion at PC 8191 -/

section

variable {op : BitVec 6} {f : Fields} {exe : State → PhaseResult} {i : Instr} {s t u : State} {a b r v : Word}
  {c : AluControl} {ovf : Option Bool} {x : Fin 4} {ea : Nat}

theorem complete_past_last (hnext : s.nextPC = none) (hpc : s.pc.toNat = 8191) :
    s.complete = .raise (.construction 13 8192) := by
  have hwide : construct 13 ((8192 : Nat) : Int) = .error (.construction 13 8192) := construct_nat_error (by decide)
  rw [complete_of_no_target hnext, hpc]
  exact (congrArg (orRaise · _) hwide).trans (orRaise_error _ _)

/-- A last microstep that completes in `u`: its fault is taken in the state before it. -/
theorem runsTo_pastLastPc (ht : t.Executing) (h1 : exe t = u.complete) (hnext : u.nextPC = none)
    (hpc : u.pc.toNat = 8191) : RunsTo op f exe 1 t t.pastLastPc :=
  runsTo_raise ht (h1.trans (complete_past_last hnext hpc))

/-- An instruction whose only microstep completes in a state `u` with the old PC. -/
theorem exec_completes_past_last (h : s.Fetched) (hi : UsesEa i) (hr : s.DecodeReadable i.fields)
    (hpc : s.pc.toNat = 8191) (hexe : executeMicrostep i (s.atExecute i) = u.complete)
    (hnext : u.nextPC = (s.atExecute i).nextPC) (hu : u.pc = (s.atExecute i).pc) :
    exec i s = .next (s.atExecute i).pastLastPc :=
  exec_raises_at_execute h hi hr (hexe.trans
    (complete_past_last (hnext.trans (atExecute_ready h i).nextPC) (by rwa [hu, s.atExecute_pc])))

/-- E1 of a load. -/
theorem runsTo_load_past_last {g : GeneralRegs} {y : IndexRegs} (ht : t.ExecuteReady) (hpc : t.pc.toNat = 8191)
    (hlast : exe (t.readServed ea) = State.complete { t.readServed ea with regs := g, index := y }) :
    RunsTo op f exe 1 (t.readServed ea) (t.readServed ea).pastLastPc :=
  runsTo_pastLastPc (t := t.readServed ea) ht.executing hlast ht.nextPC hpc

/-- A load: what E0 read into MBR stands. -/
theorem exec_load_past_last {g : GeneralRegs} {y : IndexRegs} (hread : ReadsMemory i) (h : s.Fetched)
    (hr : s.DecodeReadable i.fields) (hea : s.effectiveAddress i.fields = ea) (hcell : ea < 2048)
    (hpc : s.pc.toNat = 8191)
    (hlast : executeMicrostep i ((s.atExecute i).readServed ea) =
      State.complete { (s.atExecute i).readServed ea with regs := g, index := y }) :
    exec i s = .next (State.pastLastPc
      { (s.atExecute i).readPending ea with mbr := s.mem.read ea, mstate := .fetch }) := by
  have hend : ExecutesTo i 1 ((s.atExecute i).readServed ea) ((s.atExecute i).readServed ea).pastLastPc :=
    runsTo_load_past_last (atExecute_ready h i) (by rwa [s.atExecute_pc]) hlast
  rw [exec_of_read hread h hr hea hcell hend (by decide), State.readServed, s.atExecute_mem]

/-- E1 of a store completes. -/
theorem WritesMemory.executeMicrostep_last (h : WritesMemory s.regs s.index i v) (hm : t.micro = 1) :
    executeMicrostep i t = t.complete := by
  cases h with
  | str f => simp only [executeMicrostep, strMicrostep, hm]
  | stx f y hy => simp only [executeMicrostep, stxMicrostep, hm]

/-- E1 of a store. -/
theorem runsTo_store_past_last (ht : t.ExecuteReady) (hpc : t.pc.toNat = 8191)
    (hlast : exe (t.writeServed ea v) = (t.writeServed ea v).complete) :
    RunsTo op f exe 1 (t.writeServed ea v) (t.writeServed ea v).pastLastPc :=
  runsTo_pastLastPc (t := t.writeServed ea v) ht.executing hlast ht.nextPC hpc

/-- A store: what E0 wrote to memory stands. -/
theorem exec_store_past_last (hwrite : WritesMemory s.regs s.index i v) (h : s.Fetched)
    (hr : s.DecodeReadable i.fields) (hea : s.effectiveAddress i.fields = ea) (hcell : ea < 2048)
    (hpc : s.pc.toNat = 8191) :
    exec i s = .next (State.pastLastPc
      { (s.atExecute i).writePending ea v with mem := s.mem.write ea v, mstate := .store }) := by
  have hend : ExecutesTo i 1 ((s.atExecute i).writeServed ea v) ((s.atExecute i).writeServed ea v).pastLastPc :=
    runsTo_store_past_last (atExecute_ready h i) (by rwa [s.atExecute_pc]) (hwrite.executeMicrostep_last rfl)
  rw [exec_of_write hwrite h hr hea hcell hend (by decide), State.writeServed, s.atExecute_mem]

/-- An instruction that computes with the ALU into a register: the result and CC.OVF stand. -/
theorem runsTo_compute_past_last (ht : t.Executing) (hidle : t.AluIdle) (hnext : t.nextPC = none)
    (hpc : t.pc.toNat = 8191) (hmem : t.mstate = .none ∨ t.mstate.busy = true) (hstages : StagesAlu exe t a b c)
    (hcompute : aluCompute c a b = .ok (r, ovf))
    (hlast : exe (t.computed r ovf) = ((t.computed r ovf).setReg x r).complete) :
    RunsTo op f exe 5 t (t.computed r ovf).pastLastPc :=
  runsTo_of_stagesAlu ht hidle hmem hstages hcompute (runsTo_pastLastPc (t := t.computed r ovf) ht hlast hnext hpc)

/-- As above, from E1 on, after a read of `M[ea]` in E0. -/
theorem runsTo_read_compute_past_last (ht : t.ExecuteReady) (hidle : t.AluIdle) (hpc : t.pc.toNat = 8191)
    (hstages : StagesAlu exe (t.readServed ea) a b c) (hcompute : aluCompute c a b = .ok (r, ovf))
    (hlast : exe ((t.readServed ea).computed r ovf) = (((t.readServed ea).computed r ovf).setReg x r).complete) :
    RunsTo op f exe 5 (t.readServed ea) ((t.readServed ea).computed r ovf).pastLastPc :=
  runsTo_compute_past_last (t := t.readServed ea) ht.executing hidle ht.nextPC hpc (.inr rfl) hstages hcompute hlast

/-- The read and the computation, seen from a state whose memory unit is idle. -/
theorem computed_readServed {ovf : Bool} (hidle : t.mstate = .none) :
    (t.readServed ea).computed r (some ovf) = { t with
      micro := 5, mar := BitVec.ofNat 13 ea, mbr := t.mem.read ea, astate := .finished, result := some r,
      cc := ccWithOverflow t.cc ovf } := by
  rw [State.computed, ← hidle]
  rfl

/-- An instruction that reads `M[ea]` in E0 and computes with the ALU. -/
theorem exec_read_compute_past_last {ovf : Bool} (hread : ReadsMemory i) (h : s.Fetched)
    (hr : s.DecodeReadable i.fields) (hea : s.effectiveAddress i.fields = ea) (hcell : ea < 2048)
    (hpc : s.pc.toNat = 8191) (hstages : StagesAlu (executeMicrostep i) ((s.atExecute i).readServed ea) a b c)
    (hcompute : aluCompute c a b = .ok (r, some ovf))
    (hlast : executeMicrostep i (((s.atExecute i).readServed ea).computed r (some ovf)) =
      ((((s.atExecute i).readServed ea).computed r (some ovf)).setReg x r).complete) :
    exec i s = .next (State.pastLastPc
      { s.atExecute i with
        micro := 5, mar := BitVec.ofNat 13 ea, mbr := s.mem.read ea, astate := .finished, result := some r,
        cc := ccWithOverflow s.cc ovf }) := by
  have ht := atExecute_ready h i
  have hend : ExecutesTo i 5 ((s.atExecute i).readServed ea)
      (((s.atExecute i).readServed ea).computed r (some ovf)).pastLastPc :=
    runsTo_read_compute_past_last ht (atExecute_aluIdle h i) (by rwa [s.atExecute_pc]) hstages hcompute hlast
  rw [exec_of_read hread h hr hea hcell hend (by decide), computed_readServed ht.mstate,
    ← s.atExecute_mem i, ← s.atExecute_cc i]

/-- As for the others that compute, for AIR and SIR. -/
theorem runInstruction_immediate_past_last {ovf : Bool} (h : s.Fetched)
    (hop : op = Config.opcodeMap .AIR ∨ op = Config.opcodeMap .SIR) (hpc : s.pc.toNat = 8191)
    (hstages : StagesAlu exe (s.atImmediate op f) a b c) (hcompute : aluCompute c a b = .ok (r, some ovf))
    (hlast : exe ((s.atImmediate op f).computed r (some ovf)) =
      (((s.atImmediate op f).computed r (some ovf)).setReg x r).complete) :
    runInstruction op f exe s = .next (State.pastLastPc
      { s with
        top := .execute, micro := 4, dec := some ⟨op, f, .none⟩, astate := .finished, result := some r,
        cc := ccWithOverflow s.cc ovf }) := by
  obtain ⟨hhalted, hfault, -, -, -, hea, hnext, hmstate, hidle⟩ := id h
  have hrun : s.stopped = false := (stopped_eq_false_iff s).2 ⟨hhalted, hfault⟩
  have hend := runsTo_compute_past_last (op := op) (f := f) (t := s.atImmediate op f) ⟨rfl, hrun⟩ hidle hnext hpc
    (.inl hmstate) hstages hcompute hlast
  rw [runInstruction_of_runsTo_immediate h hop hend (by decide), State.computed, State.atImmediate, ← hmstate, ← hea]
  rfl

end

/-! ## Each instruction -/

section

variable {f : Fields} {i : Instr} {s : State} {taken : Bool} {ea : Nat}

/-- A jump that is taken to a target too wide for PC. -/
theorem exec_jump_too_wide (hjump : JumpsWhen s.regs s.cc i true) (h : s.Fetched) (hr : s.DecodeReadable i.fields)
    (hea : s.effectiveAddress i.fields = ea) (hwide : 8191 < ea) :
    exec i s = .next ((s.atExecute i).takeFault (.construction 13 ea) .controlUnit) :=
  exec_raises_at_execute h hjump.usesEa hr
    ((hjump.atExecute.executeMicrostep_eq rfl).trans (jumpWhen_too_wide (congrArg some hea) hwide))

theorem exec_jump_past_last (hjump : JumpsWhen s.regs s.cc i false) (h : s.Fetched) (hr : s.DecodeReadable i.fields)
    (hpc : s.pc.toNat = 8191) : exec i s = .next (s.atExecute i).pastLastPc :=
  exec_completes_past_last h hjump.usesEa hr hpc
    ((hjump.atExecute.executeMicrostep_eq rfl).trans (jumpWhen_not_taken _)) rfl rfl

/-- The shifts, TRR, ORR and NOT, whose only microstep writes a register or CC and completes. -/
theorem exec_shiftLogical_past_last (hi : i ∈ [Instr.src f, .rrc f, .trr f, .orr f, .not f]) (h : s.Fetched)
    (hr : s.DecodeReadable f) (hpc : s.pc.toNat = 8191) : exec i s = .next (s.atExecute i).pastLastPc := by
  simp only [List.mem_cons, List.not_mem_nil, or_false] at hi
  obtain rfl | rfl | rfl | rfl | rfl := hi
  all_goals exact exec_completes_past_last h ⟨nofun, nofun⟩ hr hpc rfl rfl rfl

theorem exec_sob_too_wide (h : s.Fetched) (hr : s.DecodeReadable f) (hea : s.effectiveAddress f = ea)
    (hwide : 8191 < ea) (hpos : 0 < (s.reg f.r - 1).toInt) :
    exec (.sob f) s = .next ((s.sobDecided f).takeFault (.construction 13 ea) .controlUnit) :=
  exec_sob_of_last h hr (runsTo_raise (atExecute_ready h (.sob f)).executing
    (sobMicrostep_last_too_wide hpos hea hwide))

theorem exec_sob_past_last (h : s.Fetched) (hr : s.DecodeReadable f) (hpc : s.pc.toNat = 8191)
    (hneg : (s.reg f.r - 1).toInt ≤ 0) : exec (.sob f) s = .next (s.sobDecided f).pastLastPc :=
  exec_sob_of_last h hr (runsTo_pastLastPc (atExecute_ready h (.sob f)).executing
    (sobMicrostep_last_not_taken hneg) (sobDecided_nextPC h f) (by simpa using hpc))

theorem and_stagesAlu {t : State} (f : Fields) (hm : t.micro = 0) :
    StagesAlu (andMicrostep f) t (t.reg f.rfi) (t.reg f.xfi) .and := by
  cases t
  cases hm
  exact ⟨rfl, rfl, rfl, rfl⟩

theorem exec_and_past_last (h : s.Fetched) (hr : s.DecodeReadable f) (hpc : s.pc.toNat = 8191) :
    exec (.and f) s = .next (State.pastLastPc
      { s.atExecute (.and f) with
        micro := 4, astate := .finished, result := some (s.reg f.rfi &&& s.reg f.xfi) }) := by
  have ht := atExecute_ready h (.and f)
  have hstages := and_stagesAlu (t := s.atExecute (.and f)) f rfl
  rw [State.atExecute_reg, State.atExecute_reg] at hstages
  have hend := runsTo_compute_past_last (op := Config.opcodeMap .AND) (f := f) ht.executing (atExecute_aluIdle h _)
    ht.nextPC (by rwa [s.atExecute_pc]) (.inl ht.mstate) hstages rfl rfl
  calc exec (.and f) s
      = .next ((s.atExecute (.and f)).computed (s.reg f.rfi &&& s.reg f.xfi) none).pastLastPc :=
        runInstruction_of_runsTo (i := .and f) h ⟨nofun, nofun⟩ hr hend (by decide)
    _ = _ := by
      rw [State.computed, ← ht.mstate]
      rfl

theorem exec_lda_past_last (h : s.Fetched) (hr : s.DecodeReadable f) (hea : s.effectiveAddress f = ea)
    (hpc : s.pc.toNat = 8191) :
    exec (.lda f) s = .next (State.pastLastPc
      { s.atExecute (.lda f) with micro := 1, regs := s.regs.set f.r (BitVec.ofNat 20 ea) }) := by
  have ht := atExecute_ready h (.lda f)
  have hfirst := ldaMicrostep_first (f := f) (t := s.atExecute (.lda f)) rfl (congrArg some hea)
    (hea ▸ effectiveAddress_lt s f)
  have hlast : ExecutesTo (.lda f) 1 ((s.atExecute (.lda f)).setReg f.r (BitVec.ofNat 20 ea)).nextMicro
      ((s.atExecute (.lda f)).setReg f.r (BitVec.ofNat 20 ea)).nextMicro.pastLastPc :=
    runsTo_pastLastPc ht.executing rfl ht.nextPC (by simpa using hpc)
  have hend := executesTo_tick ht.executing hfirst (aluPhase_of_none ht.astate) (memoryPhase_of_none ht.mstate)
    ht.executing hlast
  rw [exec_of_executesTo (i := .lda f) h ⟨nofun, nofun⟩ hr hend (by decide), ← s.atExecute_regs (.lda f)]
  rfl

end

/-- Settles O40: the target is constructed before the microstep writes anything, and so is PC + 1. -/
theorem takenTransferTooWideFaults : Obligations.TakenTransferTooWideFaults := by
  unfold Obligations.TakenTransferTooWideFaults
  refine ⟨fun f s ea h hr hea => ⟨fun hwide => ⟨fun i taken hi htaken => ?jump, exec_sob_too_wide h hr hea hwide⟩,
    fun hwide => ?rfs, fun hpc => ⟨fun i taken hi htaken => ?atOnce, exec_sob_past_last h hr hpc,
      exec_and_past_last h hr hpc, exec_lda_past_last h hr hea hpc, fun hcell m hm => ?memory⟩⟩,
    fun f s imm h himm hpc => ?immediate⟩
  case jump =>
    subst htaken
    obtain hi | hi := List.mem_append.1
      (show (i, true) ∈ s.conditionalJumps f ++ [(.jmp f, true), (.jsr f, true)] from hi)
    · obtain ⟨hjump, rfl⟩ := jumpsWhen_of_mem hi
      exact exec_jump_too_wide hjump h hr hea hwide
    · simp only [List.mem_cons, List.not_mem_nil, or_false, Prod.mk.injEq, and_true] at hi
      obtain rfl | rfl := hi
      · exact exec_jump_too_wide (.jmp f) h hr hea hwide
      · exact exec_raises_at_execute h ⟨nofun, nofun⟩ hr
          (jsrMicrostep_too_wide (t := s.atExecute (.jsr f)) rfl (congrArg some hea) hwide)
  case rfs =>
    have hfault := rfsMicrostep_too_wide (f := f) (t := s.atExecute (.rfs f)) (link := Config.linkReg)
      (writesR0 := Config.rfsWritesR0) (ext := Config.immExt) rfl (by rwa [State.atExecute_reg])
    rw [State.atExecute_reg] at hfault
    exact exec_raises_at_execute h ⟨nofun, nofun⟩ hr hfault
  case atOnce =>
    subst htaken
    obtain hi | hi := List.mem_append.1 (show (i, false) ∈ s.conditionalJumps f ++
      [(.src f, false), (.rrc f, false), (.trr f, false), (.orr f, false), (.not f, false)] from hi)
    · obtain ⟨hjump, rfl⟩ := jumpsWhen_of_mem hi
      exact exec_jump_past_last hjump h hr hpc
    · exact exec_shiftLogical_past_last (by simpa using hi) h hr hpc
  case memory =>
    subst hm
    have hamr := amr_stagesAlu f (s.atExecute (.amr f)) ea
    have hsmr := smr_stagesAlu_memMinusReg f (s.atExecute (.smr f)) ea
    rw [State.atExecute_reg, State.atExecute_mem] at hamr hsmr
    refine ⟨exec_load_past_last (.ldr f) h hr hea hcell hpc rfl, fun hx hfits => ?ldx,
      exec_store_past_last (.str f) h hr hea hcell hpc,
      fun x hx => exec_store_past_last (.stx f x hx) h hr hea hcell hpc,
      exec_read_compute_past_last (.amr f) h hr hea hcell hpc hamr (aluCompute_add _ _) rfl,
      exec_read_compute_past_last (.smr f) h hr hea hcell hpc hsmr (aluCompute_subtract_eq_sub _ _) rfl⟩
    exact exec_load_past_last (.ldx f hx) h hr hea hcell hpc
      (ldxMicrostep_last_of_fits (t := (s.atExecute (.ldx f)).readServed ea) rfl (by simpa using hfits))
  case immediate =>
    subst himm
    exact ⟨runInstruction_immediate_past_last h (.inl rfl) hpc (air_stagesAlu s _ f) (aluCompute_add _ _) rfl,
      runInstruction_immediate_past_last h (.inr rfl) hpc (sir_stagesAlu s _ f) (aluCompute_subtract_eq_sub _ _) rfl⟩

/-! ## The JCC of a run (R114) -/

/-- A decode read that names no cell ends the run with a fault. -/
theorem decodeReadable_of_exec {i : Instr} {s t : State} (h : s.Fetched) (hi : UsesEa i) (ht : exec i s = .next t)
    (hfault : t.fault = none) : s.DecodeReadable i.fields := by
  obtain ⟨hair, hsir⟩ := hi
  intro hibit
  by_contra hb
  obtain ⟨hout, hwide⟩ := decodeReadOutsideMemoryFaults i s _ h hair hsir hibit rfl
  obtain hhigh | hhigh := le_or_gt (s.baseAddress i.fields) 8191
  · rw [hout (not_lt.1 hb) hhigh] at ht
    cases ht
    cases hfault
  · rw [hwide hhigh] at ht
    cases ht
    cases hfault

/-- Settles O57: the fetch clears CC (40_cycle.md R76), so that the test fails whatever bit it reads. -/
theorem jccNeverJumpsInARun : Obligations.JccNeverJumpsInARun := by
  unfold Obligations.JccNeverJumpsInARun
  intro s t f h hp hdecode hstep hfault
  have hfetched := afterFetch_fetched h
  rw [step_of_ready h hp, runCurrent_of_decode (by rwa [currentWord_afterFetch h])] at hstep
  have hr := decodeReadable_of_exec (i := .jcc f) hfetched ⟨nofun, nofun⟩ hstep hfault
  have hclear : ccBit s.afterFetch.cc f.cc = false := by
    rw [State.afterFetch, ccBit]
    exact BitVec.getMsbD_zero
  have hjump : JumpsWhen s.afterFetch.regs s.afterFetch.cc (.jcc f) false := hclear ▸ .jcc f
  have hpc : s.afterFetch.pc.toNat < 8191 := lt_trans hp (by decide)
  rw [exec_jump_not_taken hjump hfetched hr hpc] at hstep
  cases hstep
  refine ⟨?_, rfl, rfl⟩
  rw [State.backToFetch]
  exact (BitVec.toNat_ofNat _ 13).trans (Nat.mod_eq_of_lt (by omega))

end Sys2Proof.Machine
end

section
/-!
PROOFS. Shifts and logic (45_shift_logical.md R120 to R125). All but AND have one microstep, which writes a register or
CC and completes; AND computes with the ALU.
-/

namespace Sys2Proof.Machine

open Sys2Proof

/-! ## The fields of a shift (30_encoding.md R62) -/

section

variable {f : Fields}

theorem shiftDirection_eq_of_iff {dir : Direction} (hdir : dir = .left ↔ f.xfi.val % 2 = 1) :
    shiftDirection f = dir := by
  cases dir with
  | left => exact if_pos (hdir.1 rfl)
  | right => exact if_neg (hdir.not.1 nofun)

theorem shiftMode_eq_of_iff {mode : ShiftMode} (hmode : mode = .logical ↔ f.xfi.val / 2 = 1) : shiftMode f = mode := by
  cases mode with
  | logical => exact if_pos (hmode.1 rfl)
  | arithmetic => exact if_neg (hmode.not.1 nofun)

end

/-! ## Instructions of one microstep that complete -/

/-- The instructions whose only microstep writes a word to a general register, with the register and the word, by the
registers it is taken from (R120, R121, R124, R125). -/
inductive WritesRegister (g : GeneralRegs) : Instr → Fin 4 → Word → Prop
  | src (f : Fields) :
      WritesRegister g (.src f) f.r (shift (g.get f.r) (shiftCount f) (shiftDirection f) (shiftMode f))
  | rrc (f : Fields) : WritesRegister g (.rrc f) f.r (rotate (g.get f.r) (shiftCount f) (shiftDirection f))
  | orr (f : Fields) : WritesRegister g (.orr f) f.rfi (g.get f.rfi ||| g.get f.xfi)
  | not (f : Fields) : WritesRegister g (.not f) f.rfi (~~~(g.get f.rfi))

section

variable {i : Instr} {s t : State} {f : Fields} {x : Fin 4} {v : Word}

theorem WritesRegister.usesEa {g : GeneralRegs} (h : WritesRegister g i x v) : UsesEa i := by
  cases h <;> exact ⟨nofun, nofun⟩

theorem WritesRegister.executeMicrostep_eq (h : WritesRegister t.regs i x v) (hm : t.micro = 0) :
    executeMicrostep i t = (t.setReg x v).complete := by
  cases h with
  | src f => rw [executeMicrostep, srcMicrostep, hm]; rfl
  | rrc f => rw [executeMicrostep, rrcMicrostep, hm]; rfl
  | orr f => rw [executeMicrostep, orrMicrostep, hm]; rfl
  | not f => rw [executeMicrostep, notMicrostep, hm]; rfl

theorem trr_executeMicrostep_eq (hm : t.micro = 0) : executeMicrostep (.trr f) t =
    State.complete { t with cc := ccWithEqual t.cc (decide (t.reg f.rfi = t.reg f.xfi)) } := by
  rw [executeMicrostep, trrMicrostep, hm]
  rfl

/-- An instruction whose only microstep leaves the general registers at `g` and CC at `cc` and completes. -/
theorem exec_of_complete {g : GeneralRegs} {cc : BitVec 4} (h : s.Fetched) (hi : UsesEa i)
    (hr : s.DecodeReadable i.fields) (hpc : s.pc.toNat < 8191)
    (hexe : executeMicrostep i (s.atExecute i) = State.complete { s.atExecute i with regs := g, cc := cc }) :
    exec i s = .next { (s.afterDecode i.fields).backToFetch s.pcPlusOne with regs := g, cc := cc } := by
  have ht := atExecute_ready h i
  have hpc' : (s.atExecute i).pc.toNat < 8191 := by rwa [s.atExecute_pc]
  have hend := executesTo_complete ht.executing hexe ht.nextPC hpc' ht.astate (.inl ht.mstate)
  rw [exec_of_executesTo h hi hr hend (by decide), ← completed_atExecute h]
  rfl

/-- A write to a general register keeps CC. -/
theorem exec_of_writesRegister (hwrite : WritesRegister s.regs i x v) (h : s.Fetched) (hr : s.DecodeReadable i.fields)
    (hpc : s.pc.toNat < 8191) :
    exec i s = .next { (s.afterDecode i.fields).backToFetch s.pcPlusOne with regs := s.regs.set x v } := by
  have hexe := WritesRegister.executeMicrostep_eq (t := s.atExecute i) (by rwa [s.atExecute_regs]) rfl
  rw [exec_of_complete h hwrite.usesEa hr hpc hexe, s.atExecute_regs, s.atExecute_cc, ← s.afterDecode_cc i.fields]
  rfl

end

/-- Settles O34: the index field alone fixes the direction and the mode. -/
theorem shiftAndRotateTheRegister : Obligations.ShiftAndRotateTheRegister := by
  unfold Obligations.ShiftAndRotateTheRegister
  intro f s dir mode h hr hpc hdir hmode
  obtain rfl := shiftDirection_eq_of_iff hdir
  obtain rfl := shiftMode_eq_of_iff hmode
  exact ⟨exec_of_writesRegister (.src f) h hr hpc, exec_of_writesRegister (.rrc f) h hr hpc⟩

/-- Settles O35: the comparison writes CC.EQ, which is one bit of CC (10_state.md R25). -/
theorem trrSetsTheEqualFlag : Obligations.TrrSetsTheEqualFlag := by
  unfold Obligations.TrrSetsTheEqualFlag
  intro f s h hr hpc
  have hrun := exec_of_complete (i := .trr f) h ⟨nofun, nofun⟩ hr hpc (trr_executeMicrostep_eq rfl)
  rw [s.atExecute_regs, s.atExecute_cc, s.atExecute_reg, s.atExecute_reg, ← s.afterDecode_regs f] at hrun
  exact ⟨_, hrun, rfl, ccBit_ccWithEqual _ _, fun _ hi => ccBit_ccWithEqual_of_ne _ _ hi⟩

/-- AND leaves the ALU idle and CC as it was: its function answers no overflow (41_alu.md R96). -/
theorem exec_and {f : Fields} {s : State} (h : s.Fetched) (hr : s.DecodeReadable f) (hpc : s.pc.toNat < 8191) :
    exec (.and f) s = .next { (s.afterDecode f).backToFetch s.pcPlusOne with
      regs := s.regs.set f.rfi (s.reg f.rfi &&& s.reg f.xfi) } := by
  have ht := atExecute_ready h (.and f)
  have hstages := and_stagesAlu (t := s.atExecute (.and f)) f rfl
  rw [State.atExecute_reg, State.atExecute_reg] at hstages
  have hend := runsTo_of_compute (op := Config.opcodeMap .AND) (f := f) (x := f.r) ht.executing (atExecute_aluIdle h _)
    ht.nextPC (by rwa [s.atExecute_pc]) (.inl ht.mstate) hstages rfl rfl
  calc exec (.and f) s
      = .next { (s.atExecute (.and f)).completed with
          regs := (s.atExecute (.and f)).regs.set f.rfi (s.reg f.rfi &&& s.reg f.xfi) } :=
        runInstruction_of_runsTo (i := .and f) h ⟨nofun, nofun⟩ hr hend (by decide)
    _ = _ := by rw [completed_atExecute h, s.atExecute_regs]; rfl

/-- Settles O36: AND through the ALU, the other two in one microstep. -/
theorem logicWritesTheRegisterAlone : Obligations.LogicWritesTheRegisterAlone := by
  unfold Obligations.LogicWritesTheRegisterAlone
  intro f s h hr hpc
  exact ⟨exec_and h hr hpc, exec_of_writesRegister (.orr f) h hr hpc, exec_of_writesRegister (.not f) h hr hpc⟩

end Sys2Proof.Machine
end

section
/-!
PROOFS. Faults in a tick (60_exceptions.md R126, R129, R130): what of the tick survives in each phase, and the faults of the
ALU (DivisionByZeroError and ALUProtocolError), which no microstep and no phase raises in a run without host requests: every
result is read where the staging of R83 has left one, and DIVIDE is never staged (41_alu.md R100).
-/

namespace Sys2Proof.Machine

open Sys2Proof

/-! ## What of the tick survives -/

/-- A tick whose ALU phase raises a fault: the control unit's actions stand and the memory phase does not run. -/
theorem tickWith_alu_raise {cu : State → PhaseResult} {s s1 : State} {k : FaultKind} (h : s.stopped = false)
    (h1 : cu s = .done s1) (h2 : aluPhase s1 = .raise k) : tickWith cu s = .next (s1.takeFault k .alu) := by
  simp [tickWith, h, h1, h2, PhaseResult.andThen]

/-- Settles O37: a tick that raises, for each of its three phases. -/
theorem faultsEndTheTickWhereTheyAreRaised : Obligations.FaultsEndTheTickWhereTheyAreRaised := by
  unfold Obligations.FaultsEndTheTickWhereTheyAreRaised
  intro s s1 s2 k hrun
  exact ⟨tickWith_raise hrun, tickWith_alu_raise hrun, tickWith_memory_raise hrun⟩

/-- A tick of a run without host requests takes a fault in the control unit or in the memory phase: the ALU phase raises
none. -/
theorem tick_fault_cases {s t : State} {n : Nat} (h : s.RunsLegally n) (ht : tick s = .next t)
    (hfault : t.fault ≠ none) :
    (∃ k, controlUnitPhase s = .raise k ∧ t = s.takeFault k .controlUnit) ∨
      ∃ s1 s2 k, controlUnitPhase s = .done s1 ∧ aluPhase s1 = .done s2 ∧ memoryPhase s2 = .raise k ∧
        t = s2.takeFault k .memory := by
  obtain ⟨-, rfl⟩ | ⟨-, hcu⟩ | ⟨-, s1, k, h1, h2, -⟩ | ⟨-, hmem⟩ | ⟨-, s1, s2, h1, h2, h3⟩ := tickWith_next ht
  · exact absurd h.fault hfault
  · exact .inl hcu
  · obtain ⟨ms, j, hreach⟩ := controlUnitPhase_reach h h1
    obtain ⟨u, hu, -⟩ := hreach.alu
    cases h2.symm.trans hu
  · exact .inr hmem
  · obtain ⟨ms, j, hreach⟩ := controlUnitPhase_reach h h1
    have hsame := (aluPhase_sameControl h2).1.trans (memoryPhase_sameControl h3)
    exact absurd (hsame.fault.trans hreach.fault) hfault

/-! ## The faults of the ALU -/

/-- The faults of the ALU: DivisionByZeroError and ALUProtocolError (R126). -/
def FaultKind.OfAlu : FaultKind → Prop
  | .divisionByZero | .aluProtocol _ => True
  | .construction _ _ | .addressOutOfRange _ | .unhandledOpcode _ | .invalidRegister _ => False

theorem not_ofAlu_iff (k : FaultKind) : ¬k.OfAlu ↔ k ≠ .divisionByZero ∧ ∀ c, k ≠ .aluProtocol c := by
  cases k <;> simp [FaultKind.OfAlu]

/-- A phase that raises a fault raises none of the ALU's. -/
def PhaseResult.SparesAlu : PhaseResult → Prop
  | .raise k => ¬k.OfAlu
  | .done _ => True
  | .noRule => True

@[simp] theorem sparesAlu_done (s : State) : (PhaseResult.done s).SparesAlu := trivial

@[simp] theorem sparesAlu_noRule : PhaseResult.noRule.SparesAlu := trivial

@[simp] theorem sparesAlu_invalidRegister (i : Nat) : (PhaseResult.raise (.invalidRegister i)).SparesAlu := not_false

@[simp] theorem sparesAlu_unhandledOpcode (op : BitVec 6) : (PhaseResult.raise (.unhandledOpcode op)).SparesAlu :=
  not_false

@[simp] theorem sparesAlu_orRaise_construct (w : Nat) (n : Int) (k : BitVec w → PhaseResult) :
    (orRaise (construct w n) k).SparesAlu ↔ ∀ v, construct w n = .ok v → (k v).SparesAlu := by
  obtain hc | hc := construct_cases w n <;> simp [hc, orRaise, PhaseResult.SparesAlu, FaultKind.OfAlu]

@[simp] theorem sparesAlu_withEa (s : State) (k : Nat → PhaseResult) :
    (s.withEa k).SparesAlu ↔ ∀ ea, s.ea = some ea → (k ea).SparesAlu := by
  unfold State.withEa
  split <;> simp_all

@[simp] theorem sparesAlu_ite (c : Prop) [Decidable c] (p q : PhaseResult) :
    (if c then p else q).SparesAlu ↔ (c → p.SparesAlu) ∧ (¬c → q.SparesAlu) := by
  split <;> simp_all

@[simp] theorem sparesAlu_complete (s : State) : s.complete.SparesAlu := by
  unfold State.complete
  split <;> simp

@[simp] theorem sparesAlu_jumpWhen (taken : Bool) (s : State) : (jumpWhen taken s).SparesAlu := by
  simp [jumpWhen, State.jumpTo]

theorem fetchMicrostep_sparesAlu (s : State) : (fetchMicrostep s).SparesAlu := by
  unfold fetchMicrostep
  split <;> simp [orStall_setMAR]

theorem decodeMicrostep_sparesAlu (op : BitVec 6) (f : Fields) (s : State) : (decodeMicrostep op f s).SparesAlu := by
  unfold decodeMicrostep
  repeat' split
  all_goals simp [orStall_setMAR]

/-- The last microstep of an instruction that uses the ALU reads a result that is there. -/
theorem withResult_sparesAlu {m : Mnemonic} {s : State} {j : Nat} {k : Word → PhaseResult} (hj : aluOffset m = some j)
    (hm : s.micro = j + 4) (h : s.aluAtStage (aluStageAt m s.micro) = true) (hk : ∀ v, (k v).SparesAlu) :
    (s.withResult k).SparesAlu := by
  rw [hm, aluStageAt_offset hj, aluAtStage_four_iff] at h
  obtain ⟨hfinished, -, -, -, hresult⟩ := h
  obtain ⟨v, hv⟩ := Option.isSome_iff_exists.1 hresult
  rw [withResult_of_finished hfinished hv]
  exact hk v

/-- With the ALU at the stage of its place, no microstep of EXECUTE raises a fault of the ALU. -/
theorem executeMicrostep_sparesAlu {i : Instr} {s : State} (h : s.aluAtStage (aluStageAt i.mnemonic s.micro) = true) :
    (executeMicrostep i s).SparesAlu := by
  cases i with
  | hlt f =>
    simp only [executeMicrostep, hltMicrostep]
    split <;> simp
  | ldr f | str f | lda f | ldx f | stx f =>
    simp only [executeMicrostep, ldrMicrostep, strMicrostep, ldaMicrostep, ldxMicrostep, stxMicrostep]
    repeat' split
    all_goals simp [orStall_setMAR, orStall_setMBR]
  | amr f | smr f =>
    simp only [executeMicrostep, amrMicrostep, smrMicrostep, Config.smrOrder]
    split
    case h_6 hm => exact withResult_sparesAlu (j := 1) rfl hm h fun v => sparesAlu_complete _
    all_goals simp [orStall_setMAR]
  | air f | sir f | and f =>
    simp only [executeMicrostep, airMicrostep, sirMicrostep, andMicrostep]
    split
    case h_5 hm => exact withResult_sparesAlu (j := 0) rfl hm h fun v => sparesAlu_complete _
    all_goals simp
  | sob f =>
    simp only [executeMicrostep, sobMicrostep]
    split
    case h_5 hm => exact withResult_sparesAlu (j := 0) rfl hm h fun v => by simp [State.jumpTo]
    all_goals simp
  | jz f | jne f | jcc f | jmp f | jge f =>
    simp only [executeMicrostep, jzMicrostep, jneMicrostep, jccMicrostep, jmpMicrostep, jgeMicrostep]
    split <;> simp
  | jsr f | rfs f =>
    simp only [executeMicrostep, jsrMicrostep, rfsMicrostep]
    split <;> simp [State.jumpTo]
  | src f | rrc f | trr f | orr f | not f =>
    simp only [executeMicrostep, srcMicrostep, rrcMicrostep, trrMicrostep, orrMicrostep, notMicrostep]
    split <;> simp

section

variable {s t : State} {n : Nat}

/-- At EXECUTE the units are where the invariant has them for the instruction of the current word. -/
theorem State.RunsLegally.units_of_decode {i : Instr} (h : s.RunsLegally n) (htop : s.top = .execute)
    (hi : decode s.currentWord = .ok i) :
    s.mstate = memStateAt i.mnemonic s.micro ∧ s.aluAtStage (aluStageAt i.mnemonic s.micro) = true := by
  have halu := h.alu
  have hplace := h.place
  have hmnemonic : ∀ d, s.dec = some d → mnemonicOf Config.opcodeMap d.opcode = some i.mnemonic := fun d hd => by
    rw [← (latch_of_decode hd hi).1, mnemonicOf_opcodeMap]
  generalize hms : s.mstate = ms at hplace
  cases hplace with
  | execute _ hd _ hop =>
    cases hop.symm.trans (hmnemonic _ hd)
    exact ⟨rfl, halu⟩
  | unhandled _ hd _ hop => cases hop.symm.trans (hmnemonic _ hd)
  | _ => simp_all

theorem controlUnitPhase_sparesAlu (h : s.RunsLegally n) : (controlUnitPhase s).SparesAlu := by
  cases htop : s.top with
  | fetch =>
    rw [controlUnitPhase_of_fetch htop]
    exact fetchMicrostep_sparesAlu s
  | decode =>
    rw [controlUnitPhase_of_decode htop]
    exact decodeMicrostep_sparesAlu _ _ s
  | execute =>
    rw [controlUnitPhase_eq_word h.place.latchesAgree (by simp [htop]), wordControlUnit_of_execute htop, wordMicrostep]
    split
    · next i hi => exact executeMicrostep_sparesAlu (h.units_of_decode htop hi).2
    · simp [unhandledMicrostep]

/-- A fault that a run without host requests takes is none of the ALU's. -/
theorem tick_takes_no_alu_fault {r : FaultRecord} (h : s.RunsLegally n) (ht : tick s = .next t)
    (hr : t.fault = some r) : ¬r.kind.OfAlu := by
  obtain ⟨k, hcu, rfl⟩ | ⟨s1, s2, k, -, -, hmem, rfl⟩ := tick_fault_cases h ht (by simp [hr])
  · have hspares := controlUnitPhase_sparesAlu h
    rw [hcu] at hspares
    cases hr
    exact hspares
  · obtain ⟨-, -, rfl⟩ := memoryPhase_raise hmem
    cases hr
    exact not_false

end

/-- Settles O44: a halted machine takes no fault, and a running one takes none of the ALU's. -/
theorem programsNeverReachTheUnitFaults : Obligations.ProgramsNeverReachTheUnitFaults := by
  unfold Obligations.ProgramsNeverReachTheUnitFaults
  intro s t r hinv hfault ht hr
  cases hstop : s.stopped with
  | true =>
    rw [tick_of_stopped hstop] at ht
    cases ht
    simp [hfault] at hr
  | false =>
    obtain ⟨n, hlegal⟩ := runsLegally_of_runPlace ((runInv_iff s).1 hinv).2 hstop
    exact (not_ofAlu_iff _).1 (tick_takes_no_alu_fault hlegal ht hr)

end Sys2Proof.Machine
end

section
/-!
PROOFS. A faulting instruction leaves R0 to R3, X1 to X3, PC and memory as they were (60_exceptions.md R132). Inside an
instruction nothing of them is written but by LDA, STR and STX in E0 (42_halt_load_store.md R103, R104, R106), and these
complete in E1 without a fault, since PC names a cell.
-/

namespace Sys2Proof.Machine

open Sys2Proof

/-- R0 to R3, X1 to X3, PC and memory are those of `s` (R132). -/
structure State.SameStorage (s t : State) : Prop where
  regs : t.regs = s.regs
  index : t.index = s.index
  pc : t.pc = s.pc
  mem : t.mem = s.mem

theorem sameStorage_iff (s t : State) :
    s.SameStorage t ↔ t.regs = s.regs ∧ t.index = s.index ∧ t.pc = s.pc ∧ t.mem = s.mem :=
  ⟨fun ⟨h1, h2, h3, h4⟩ => ⟨h1, h2, h3, h4⟩, fun ⟨h1, h2, h3, h4⟩ => ⟨h1, h2, h3, h4⟩⟩

theorem State.SameStorage.trans {s t u : State} (h : s.SameStorage t) (h' : t.SameStorage u) : s.SameStorage u where
  regs := h'.regs.trans h.regs
  index := h'.index.trans h.index
  pc := h'.pc.trans h.pc
  mem := h'.mem.trans h.mem

theorem takeFault_sameStorage (s : State) (k : FaultKind) (ph : TickPhase) : s.SameStorage (s.takeFault k ph) :=
  ⟨rfl, rfl, rfl, rfl⟩

/-! ## What the microsteps write -/

theorem fetchMoves_sameStorage {s t : State} (h : s.FetchMoves t) : s.SameStorage t := by
  cases h <;> exact ⟨rfl, rfl, rfl, rfl⟩

theorem decodeMoves_sameStorage {op : BitVec 6} {f : Fields} {s t : State} (h : s.DecodeMoves op f t) :
    s.SameStorage t := by
  cases h <;> exact ⟨rfl, rfl, rfl, rfl⟩

/-- DECODE requests reads only. -/
theorem decodeMoves_mstate {op : BitVec 6} {f : Fields} {s t : State} (h : s.DecodeMoves op f t) :
    t.mstate = s.mstate ∨ t.mstate = .preFetch := by
  cases h with
  | reads => exact .inr rfl
  | _ => exact .inl rfl

/-- What a microstep of EXECUTE can write: nothing, registers and PC as it completes, or LDA's register, which
requests no access. -/
inductive State.ExecuteWrites (i : Instr) (s : State) : State → Prop
  | nothing {t : State} (h : s.SameStorage t) : ExecuteWrites i s t
  | completes {t : State} (htop : t.top = .fetch) : ExecuteWrites i s t
  | loadsAddress {t : State} (hlda : i.mnemonic = .LDA) (hmem : t.mstate = s.mstate) : ExecuteWrites i s t

section

variable {i : Instr} {s : State}

theorem complete_writes (u : State) : u.complete.Ensures (s.ExecuteWrites i) := by
  rw [ensures_iff]
  intro t ht
  obtain ⟨p, rfl, -⟩ := complete_done ht
  exact .completes rfl

theorem jumpWhen_writes (taken : Bool) : (jumpWhen taken s).Ensures (s.ExecuteWrites i) := by
  rw [jumpWhen, ensures_ite, ensures_withEa]
  exact ⟨fun _ ea _ => ensures_jumpTo fun p => complete_writes _, fun _ => complete_writes _⟩

end

/-- Requests and the staging of the ALU write neither registers nor PC. -/
theorem executeMicrostep_writes (i : Instr) (s : State) : (executeMicrostep i s).Ensures (s.ExecuteWrites i) := by
  have hnothing : ∀ t : State, s.SameStorage t → s.ExecuteWrites i t := fun t h => .nothing h
  cases i with
  | hlt f =>
    simp only [executeMicrostep, hltMicrostep]
    split <;> simp [hnothing, sameStorage_iff]
  | lda f =>
    simp only [executeMicrostep, ldaMicrostep]
    split
    case h_1 =>
      rw [ensures_withEa]
      intro ea _
      rw [ensures_orRaise]
      exact fun v _ => .loadsAddress rfl rfl
    case h_2 => exact complete_writes _
    case h_3 => trivial
  | ldr f | str f | ldx f | stx f =>
    simp only [executeMicrostep, ldrMicrostep, strMicrostep, ldxMicrostep, stxMicrostep]
    repeat' split
    all_goals simp [orStall_setMAR, orStall_setMBR, complete_writes, hnothing, sameStorage_iff]
  | amr f | smr f | air f | sir f | and f =>
    simp only [executeMicrostep, amrMicrostep, smrMicrostep, airMicrostep, sirMicrostep, andMicrostep, Config.smrOrder]
    split <;> simp [orStall_setMAR, complete_writes, hnothing, sameStorage_iff]
  | jz f | jne f | jcc f | jmp f | jge f =>
    simp only [executeMicrostep, jzMicrostep, jneMicrostep, jccMicrostep, jmpMicrostep, jgeMicrostep]
    split <;> simp [jumpWhen_writes]
  | jsr f | rfs f | sob f =>
    simp only [executeMicrostep, jsrMicrostep, rfsMicrostep, sobMicrostep]
    split <;> simp [State.jumpTo, complete_writes, hnothing, sameStorage_iff]
  | src f | rrc f | trr f | orr f | not f =>
    simp only [executeMicrostep, srcMicrostep, rrcMicrostep, trrMicrostep, orrMicrostep, notMicrostep]
    split <;> simp [complete_writes]

/-! ## What the phases of a tick write -/

section

variable {s t u : State} {i : Instr} {n : Nat}

theorem aluPhase_sameStorage (h : aluPhase s = .done t) : s.SameStorage t := by
  obtain ⟨-, rfl⟩ | ⟨-, rfl⟩ | ⟨-, a, b, c, r, -, -, -, -, rfl⟩ := aluPhase_done h
  all_goals exact ⟨rfl, rfl, rfl, rfl⟩

/-- The memory phase writes a cell for a pending write only. -/
theorem memoryPhase_sameStorage (h : memoryPhase s = .done t) (hstore : s.mstate ≠ .preStore) : s.SameStorage t := by
  obtain ⟨-, -, rfl⟩ | ⟨hm, -, -⟩ | ⟨-, rfl⟩ | ⟨-, rfl⟩ := memoryPhase_done h
  · exact ⟨rfl, rfl, rfl, rfl⟩
  · exact absurd hm hstore
  all_goals exact ⟨rfl, rfl, rfl, rfl⟩

/-- In a tick that takes no fault all three phases are performed. -/
theorem tick_phases_of_unfaulted (h : tick s = .next t) (hrun : s.stopped = false) (ht : t.fault = none) :
    ∃ s1 s2, controlUnitPhase s = .done s1 ∧ aluPhase s1 = .done s2 ∧ memoryPhase s2 = .done t := by
  obtain ⟨hstop, -⟩ | ⟨-, k, -, rfl⟩ | ⟨-, s1, k, -, -, rfl⟩ | ⟨-, s1, s2, k, -, -, -, rfl⟩ | ⟨-, hphases⟩ :=
    tickWith_next h
  · simp [hrun] at hstop
  · cases ht
  · cases ht
  · cases ht
  · exact hphases

/-- Between the ticks of a run without host requests no access is pending. -/
theorem State.LegalPlace.afterPhase_eq_none {ms : MemState} (h : s.LegalPlace ms n) : ms.afterPhase = .none := by
  cases h with
  | execute => exact afterPhase_memStateAt _ _
  | _ => rfl

/-- What the control unit can do in EXECUTE: the move and the writes of the current word's instruction. -/
theorem controlUnitPhase_execute (h : s.RunsLegally n) (htop : s.top = .execute) (hcu : controlUnitPhase s = .done t) :
    ∃ i, decode s.currentWord = .ok i ∧ s.ExecuteMoves i.mnemonic t ∧ s.ExecuteWrites i t := by
  rw [controlUnitPhase_eq_word h.place.latchesAgree (by simp [htop]), wordControlUnit_of_execute htop] at hcu
  obtain ⟨i, hi, hmove⟩ := wordMicrostep_moves hcu
  rw [wordMicrostep_of_decode hi] at hcu
  exact ⟨i, hi, hmove, (ensures_iff _ _).1 (executeMicrostep_writes i s) t hcu⟩

/-- A microstep that leaves an access pending has written nothing. -/
theorem controlUnitPhase_of_pending (h : s.RunsLegally n) (hcu : controlUnitPhase s = .done t)
    (hpending : t.mstate.afterPhase ≠ .none) : s.SameStorage t := by
  cases htop : s.top with
  | fetch =>
    rw [controlUnitPhase_of_fetch htop] at hcu
    exact fetchMoves_sameStorage (fetchMicrostep_moves hcu)
  | decode =>
    rw [controlUnitPhase_of_decode htop] at hcu
    exact decodeMoves_sameStorage (decodeMicrostep_moves hcu)
  | execute =>
    obtain ⟨i, -, hmove, hwrites⟩ := controlUnitPhase_execute h htop hcu
    cases hwrites with
    | nothing hsame => exact hsame
    | loadsAddress _ hmem => exact absurd (hmem ▸ h.place.afterPhase_eq_none) hpending
    | completes htop' =>
      cases hmove with
      | finishes hfin => exact absurd (hfin.mem ▸ h.place.afterPhase_eq_none) hpending
      | goesOn hgo => cases (hgo.top.trans htop).symm.trans htop'
      | stalls | halts => exact ⟨rfl, rfl, rfl, rfl⟩

/-- A tick that takes a fault writes nothing: the control unit raised it, or its request found no cell. -/
theorem tick_fault_sameStorage (h : s.RunsLegally n) (ht : tick s = .next t) (hfault : t.fault ≠ none) :
    s.SameStorage t := by
  obtain ⟨k, -, rfl⟩ | ⟨s1, s2, k, h1, h2, h3, rfl⟩ := tick_fault_cases h ht hfault
  · exact takeFault_sameStorage s k _
  · have hpending : s1.mstate.afterPhase ≠ .none := by
      obtain ⟨hm | hm, -, -⟩ := memoryPhase_raise h3
      all_goals
        rw [← (aluPhase_sameControl h2).2.1, hm]
        decide
    have hsame := (controlUnitPhase_of_pending h h1 hpending).trans (aluPhase_sameStorage h2)
    exact hsame.trans (takeFault_sameStorage s2 k _)

/-! ## The instructions that write before they complete -/

/-- The instructions that write a register or a cell in E0 and only complete in E1 (R103, R104, R106). -/
inductive WritesFirst : Instr → Prop
  | lda (f : Fields) : WritesFirst (.lda f)
  | str (f : Fields) : WritesFirst (.str f)
  | stx (f : Fields) : WritesFirst (.stx f)

theorem writesFirst_of_lda (h : i.mnemonic = .LDA) : WritesFirst i := by
  cases i with
  | lda f => exact .lda f
  | _ => cases h

theorem writesFirst_of_store {k : Nat} (h : memStateAt i.mnemonic k = .store) : WritesFirst i := by
  unfold memStateAt at h
  split at h
  · cases i with
    | str f => exact .str f
    | stx f => exact .stx f
    | _ => cases h
  · cases h

theorem WritesFirst.executeMicrosteps_eq (h : WritesFirst i) : executeMicrosteps i.mnemonic = 2 := by
  cases h <;> rfl

theorem WritesFirst.executeMicrostep_last (h : WritesFirst i) (hm : s.micro = 1) :
    executeMicrostep i s = s.complete := by
  cases h with
  | lda f => simp only [executeMicrostep, ldaMicrostep, hm]
  | str f => simp only [executeMicrostep, strMicrostep, hm]
  | stx f => simp only [executeMicrostep, stxMicrostep, hm]

/-- The machine stands at E1 of an instruction that has written in E0. -/
structure State.HasWritten (s : State) (i : Instr) : Prop where
  top : s.top = .execute
  micro : s.micro = 1
  word : decode s.currentWord = .ok i
  writes : WritesFirst i

theorem State.RunsLegally.pc_lt (h : s.RunsLegally n) (htop : s.top ≠ .fetch) : s.pc.toNat < 2048 := by
  have hplace := h.place
  generalize s.mstate = ms at hplace
  cases hplace with
  | fetchStart ht | fetchMove ht => exact absurd ht htop
  | decodeStart _ _ _ _ hp => exact hp
  | decodeLatched _ _ _ _ _ hp => exact hp
  | decodeRead _ _ _ _ _ _ hp => exact hp
  | execute _ _ _ _ _ hp => exact hp
  | unhandled _ _ _ _ _ hp => exact hp

/-- Such an instruction completes without a fault, since PC + 1 fits 13 bits. -/
theorem State.HasWritten.tick_completes (hw : s.HasWritten i) (h : s.RunsLegally n) (ht : tick s = .next t) :
    t.fault = none ∧ t.top = .fetch := by
  have htop : s.top ≠ .fetch := by simp [hw.top]
  have hpc := h.pc_lt htop
  have hcu : controlUnitPhase s = .done (s.finishAt s.pcPlusOne) := by
    rw [controlUnitPhase_eq_word h.place.latchesAgree htop, wordControlUnit_of_execute hw.top,
      wordMicrostep_of_decode hw.word, hw.writes.executeMicrostep_last hw.micro, complete_of_no_jump h.nextPC (by omega)]
    rfl
  have hfault : t.fault = none := by
    by_contra hne
    obtain ⟨k, hraise, -⟩ | ⟨s1, s2, k, h1, h2, h3, -⟩ := tick_fault_cases h ht hne
    · cases hcu.symm.trans hraise
    · cases hcu.symm.trans h1
      have hrest : s2.mstate.afterPhase = .none := by
        rw [(aluPhase_sameControl h2).2.1]
        exact h.place.afterPhase_eq_none
      obtain ⟨hm | hm, -, -⟩ := memoryPhase_raise h3
      all_goals
        rw [hm] at hrest
        cases hrest
  refine ⟨hfault, ?_⟩
  obtain ⟨s1, h1, hsame, -⟩ := tickWith_next_unfaulted ht ((stopped_eq_false_iff s).2 ⟨h.halted, h.fault⟩) hfault
  cases hcu.symm.trans h1
  exact hsame.top

/-- A move inside an instruction goes on without a write and without a pending one, or it is E0 of an instruction that writes
first. -/
inductive State.GoesOnInside (s t : State) : Prop
  | nothing (hsame : s.SameStorage t) (hstore : t.mstate ≠ .preStore)
  | writes {i : Instr} (hi : decode s.currentWord = .ok i) (hw : WritesFirst i) (htop : t.top = .execute)
      (hm : t.micro = 1)

theorem decodeMoves_goesOnInside {op : BitVec 6} {f : Fields} (h : s.RunsLegally n) (hmove : s.DecodeMoves op f t) :
    s.GoesOnInside t := by
  refine .nothing (decodeMoves_sameStorage hmove) fun hstore => ?_
  have hrest := h.place.afterPhase_eq_none
  obtain hms | hms := decodeMoves_mstate hmove
  · rw [← hms, hstore] at hrest
    cases hrest
  · cases hms.symm.trans hstore

theorem goesOn_goesOnInside (h : s.RunsLegally n) (htop : s.top = .execute) (hi : decode s.currentWord = .ok i)
    (hgo : s.GoesOn i.mnemonic t) (hwrites : s.ExecuteWrites i t) : s.GoesOnInside t := by
  have hfirst : WritesFirst i → s.GoesOnInside t := fun hw => by
    have hmore := hgo.more
    rw [hw.executeMicrosteps_eq, hgo.micro] at hmore
    exact .writes hi hw (hgo.top.trans htop) (hgo.micro.trans (by omega))
  cases hwrites with
  | completes htop' => cases (hgo.top.trans htop).symm.trans htop'
  | loadsAddress hlda => exact hfirst (writesFirst_of_lda hlda)
  | nothing hsame =>
    by_cases hstore : t.mstate = .preStore
    · have hserved := hgo.mem (h.units_of_decode htop hi).1
      rw [hstore] at hserved
      exact hfirst (writesFirst_of_store hserved.symm)
    · exact .nothing hsame hstore

theorem controlUnitPhase_goesOnInside (h : s.RunsLegally n) (htop : s.top ≠ .fetch)
    (hcu : controlUnitPhase s = .done t) : s.GoesOnInside t ∨ t.top = .fetch ∨ t.halted = true := by
  cases hs : s.top with
  | fetch => exact absurd hs htop
  | decode =>
    rw [controlUnitPhase_of_decode hs] at hcu
    exact .inl (decodeMoves_goesOnInside h (decodeMicrostep_moves hcu))
  | execute =>
    obtain ⟨i, hi, hmove, hwrites⟩ := controlUnitPhase_execute h hs hcu
    cases hmove with
    | stalls hm hb => simp [h.place.not_busy (.inr ⟨hs, hm⟩)] at hb
    | goesOn hgo => exact .inl (goesOn_goesOnInside h hs hi hgo hwrites)
    | finishes hfin => exact .inr (.inl hfin.boundary.1)
    | halts => exact .inr (.inr rfl)

/-- A tick inside an instruction writes nothing, or it is E0 of an instruction that writes first. -/
theorem tick_inside_writes (h : s.RunsLegally n) (htop : s.top ≠ .fetch) (ht : tick s = .next t)
    (hend : instructionEnded s t = false) : s.SameStorage t ∨ ∃ i, t.HasWritten i := by
  obtain ⟨hrun, htop'⟩ := running_inside htop hend
  obtain ⟨hhalted, hfault⟩ := (stopped_eq_false_iff t).1 hrun
  obtain ⟨-, -, hword⟩ := tick_keeps_word h.place.latchesAgree htop ht hend
  obtain ⟨s1, s2, h1, h2, h3⟩ :=
    tick_phases_of_unfaulted ht ((stopped_eq_false_iff s).2 ⟨h.halted, h.fault⟩) hfault
  obtain ⟨hsame2, hmstate, -⟩ := aluPhase_sameControl h2
  have hcontrol := hsame2.trans (memoryPhase_sameControl h3)
  obtain hinside | htop1 | hhalt := controlUnitPhase_goesOnInside h htop h1
  · cases hinside with
    | nothing hsame hstore =>
      exact .inl ((hsame.trans (aluPhase_sameStorage h2)).trans (memoryPhase_sameStorage h3 (hmstate ▸ hstore)))
    | writes hi hw htop1 hm =>
      exact .inr ⟨_, hcontrol.top.trans htop1, hcontrol.micro.trans hm, hword ▸ hi, hw⟩
  · exact absurd (hcontrol.top.trans htop1) htop'
  · cases hhalted.symm.trans (hcontrol.halted.trans hhalt)

/-! ## From the fetch to the fault -/

/-- The machine at `u` runs the instruction that it fetched in `s`, and nothing that R132 names is written yet, or the
instruction is about to complete. -/
structure State.InsideInstruction (s u : State) : Prop where
  place : u.RunPlace
  running : u.stopped = false
  top : u.top ≠ .fetch
  storage : s.SameStorage u ∨ ∃ i, u.HasWritten i

theorem State.InsideInstruction.tick_keeps (h : s.InsideInstruction u) (ht : tick u = .next t)
    (hend : instructionEnded u t = false) : s.InsideInstruction t := by
  obtain ⟨n, hlegal⟩ := runsLegally_of_runPlace h.place h.running
  obtain ⟨hrun, htop⟩ := running_inside h.top hend
  refine ⟨tick_keeps_runPlace h.place ht, hrun, htop, ?_⟩
  obtain hsame | ⟨i, hw⟩ := h.storage
  · exact (tick_inside_writes hlegal h.top ht hend).imp_left hsame.trans
  · exact absurd (hw.tick_completes hlegal ht).2 htop

theorem State.InsideInstruction.tick_fault (h : s.InsideInstruction u) (ht : tick u = .next t)
    (hfault : t.fault ≠ none) : s.SameStorage t := by
  obtain ⟨n, hlegal⟩ := runsLegally_of_runPlace h.place h.running
  obtain hsame | ⟨i, hw⟩ := h.storage
  · exact hsame.trans (tick_fault_sameStorage hlegal ht hfault)
  · exact absurd (hw.tick_completes hlegal ht).1 hfault

/-- The ticks to the instruction's end, when they end in a fault. -/
theorem State.InsideInstruction.toEnd_fault (k : Nat) (h : s.InsideInstruction u) (ht : toEnd tick k u = .next t)
    (hfault : t.fault ≠ none) : s.SameStorage t := by
  induction k generalizing u with
  | zero =>
    cases ht
    exact absurd ((stopped_eq_false_iff _).1 h.running).2 hfault
  | succ k ih =>
    rw [toEnd] at ht
    cases hv : tick u with
    | fault r => simp [hv] at ht
    | refused r => simp [hv] at ht
    | next v =>
      cases hend : instructionEnded u v with
      | true =>
        simp only [hv, hend, if_true] at ht
        cases ht
        exact h.tick_fault hv hfault
      | false =>
        simp only [hv, hend] at ht
        exact ih (h.tick_keeps hv hend) ht

/-- A fetch from a PC that names no cell (40_cycle.md R76; 20_memory.md R43). -/
theorem step_of_ready_outside (h : s.Ready) (hp : 2048 ≤ s.pc.toNat) :
    step s = .next (State.takeFault { s with cc := 0, mar := s.pc, mstate := .preFetch, micro := 1 }
      (.addressOutOfRange s.pc.toNat) .memory) := by
  obtain ⟨hh, hf, ht, hm, hd, -, -, hb, ha, -⟩ := h
  have hrequest := fetchMicrostep_request hm
  rw [if_neg (by rw [hb]; decide)] at hrequest
  have htick := tick_read_out_of_range ((stopped_eq_false_iff s).2 ⟨hh, hf⟩)
    ((controlUnitPhase_of_fetch ht).trans hrequest) ha rfl rfl hp
  have hlatches : s.LatchesAgree := iff_of_true hd (.inl ht)
  rw [step_eq_tickToEnd hlatches, tickToEnd_of_tick htick, instructionEnded_of_stopped (takeFault_stopped _ _ _)]
  exact if_pos rfl

theorem insideInstruction_afterFetch (h : s.Ready) (hp : s.pc.toNat < 2048) : s.InsideInstruction s.afterFetch := by
  obtain ⟨hh, hf, -⟩ := afterFetch_fetched h
  exact ⟨afterFetch_runPlace h hp, (stopped_eq_false_iff _).2 ⟨hh, hf⟩, nofun, .inl ⟨rfl, rfl, rfl, rfl⟩⟩

/-- A step from an instruction boundary that ends in a fault leaves what R132 names. -/
theorem step_fault_sameStorage (h : s.Ready) (ht : step s = .next t) (hfault : t.fault ≠ none) : s.SameStorage t := by
  by_cases hp : s.pc.toNat < 2048
  · have hstart := insideInstruction_afterFetch h hp
    rw [step_of_ready h hp, runCurrent_eq_tickToEnd (afterFetch_legalPlace h hp).latchesAgree hstart.top] at ht
    exact hstart.toEnd_fault maxTicks ht hfault
  · rw [step_of_ready_outside h (by omega)] at ht
    cases ht
    exact ⟨rfl, rfl, rfl, rfl⟩

end

/-- Settles O43: the fetch writes nothing, and `State.InsideInstruction` holds from there to the tick of the fault. -/
theorem faultsLeaveRegistersPcAndMemory : Obligations.FaultsLeaveRegistersPcAndMemory := by
  unfold Obligations.FaultsLeaveRegistersPcAndMemory
  intro s t h ht hfault
  exact (sameStorage_iff s t).1 (step_fault_sameStorage h ht hfault)

end Sys2Proof.Machine
end

section
/-!
PROOFS. Runs without host requests (70_reset_and_hazards.md R149; 40_cycle.md R73): at every place of the run invariant
a rule gives the microstep, so that a tick answers a next state, and no microstep stalls, so that a tick that does not
stop the run moves the control unit to another microstep.
-/

namespace Sys2Proof.Machine

open Sys2Proof

/-! ## Microsteps that a rule gives -/

@[simp] theorem orRaise_eq_noRule_iff {α : Type} (c : Except FaultKind α) (k : α → PhaseResult) :
    orRaise c k = .noRule ↔ ∃ v, c = .ok v ∧ k v = .noRule := by
  cases c <;> simp [orRaise]

@[simp] theorem withEa_eq_noRule_iff (s : State) (k : Nat → PhaseResult) :
    s.withEa k = .noRule ↔ s.ea = none ∨ ∃ ea, s.ea = some ea ∧ k ea = .noRule := by
  unfold State.withEa
  split <;> simp_all

@[simp] theorem withResult_eq_noRule_iff (s : State) (k : Word → PhaseResult) :
    s.withResult k = .noRule ↔ ∃ v, s.astate = .finished ∧ s.result = some v ∧ k v = .noRule := by
  unfold State.withResult
  split <;> simp_all

@[simp] theorem complete_ne_noRule (s : State) : s.complete ≠ .noRule := by
  unfold State.complete
  split <;> simp

@[simp] theorem jumpTo_complete_ne_noRule (s : State) (x : Int) : s.jumpTo x State.complete ≠ .noRule := by
  simp [State.jumpTo]

theorem orStall_setMAR_ne_noRule (s u : State) (x : Int) {k : State → PhaseResult} (hk : ∀ v, k v ≠ .noRule) :
    orStall s (u.setMAR x) k ≠ .noRule := by
  rw [orStall_setMAR]
  split <;> simp [hk]

theorem orStall_setMBR_ne_noRule (s u : State) (p : Word) {k : State → PhaseResult} (hk : ∀ v, k v ≠ .noRule) :
    orStall s (u.setMBR p) k ≠ .noRule := by
  rw [orStall_setMBR]
  split <;> simp [hk]

theorem jumpWhen_ne_noRule (taken : Bool) {s : State} (hea : s.ea ≠ none) : jumpWhen taken s ≠ .noRule := by
  cases taken <;> simp [jumpWhen, hea]

/-- Every microstep below the instruction's length has a rule, given the effective address that all but AIR and SIR
have. -/
theorem executeMicrostep_has_rule {i : Instr} {s : State} (hm : s.micro < executeMicrosteps i.mnemonic)
    (hea : i.mnemonic = .AIR ∨ i.mnemonic = .SIR ∨ s.ea ≠ none) : executeMicrostep i s ≠ .noRule := by
  cases i with
  | hlt f | src f | rrc f | trr f | orr f | not f =>
    have hm0 : s.micro = 0 := Nat.lt_one_iff.1 hm
    simp [executeMicrostep, hltMicrostep, srcMicrostep, rrcMicrostep, trrMicrostep, orrMicrostep, notMicrostep, hm0]
  | jz f | jne f | jcc f | jmp f | jge f =>
    have hm0 : s.micro = 0 := Nat.lt_one_iff.1 hm
    have hlatched : s.ea ≠ none := by simpa [Instr.mnemonic] using hea
    simp [executeMicrostep, jzMicrostep, jneMicrostep, jccMicrostep, jmpMicrostep, jgeMicrostep, hm0,
      jumpWhen_ne_noRule _ hlatched]
  | jsr f | rfs f =>
    have hm0 : s.micro = 0 := Nat.lt_one_iff.1 hm
    have hlatched : s.ea ≠ none := by simpa [Instr.mnemonic] using hea
    simp [executeMicrostep, jsrMicrostep, rfsMicrostep, hm0, hlatched, State.jumpTo, Config.rfsWritesR0]
  | ldr f | str f | lda f | ldx f | stx f =>
    have hm2 : s.micro < 2 := hm
    have hlatched : s.ea ≠ none := by simpa [Instr.mnemonic] using hea
    obtain hm | hm : s.micro = 0 ∨ s.micro = 1 := by omega
    · simp only [executeMicrostep, ldrMicrostep, strMicrostep, ldaMicrostep, ldxMicrostep, stxMicrostep, hm]
      repeat' split
      all_goals simp [hlatched, orStall_setMAR_ne_noRule, orStall_setMBR_ne_noRule]
    · simp [executeMicrostep, ldrMicrostep, strMicrostep, ldaMicrostep, ldxMicrostep, stxMicrostep, hm]
  | amr f | smr f =>
    have hm6 : s.micro < 6 := hm
    have hlatched : s.ea ≠ none := by simpa [Instr.mnemonic] using hea
    obtain hm | hm | hm | hm | hm | hm :
      s.micro = 0 ∨ s.micro = 1 ∨ s.micro = 2 ∨ s.micro = 3 ∨ s.micro = 4 ∨ s.micro = 5 := by omega
    all_goals
      simp [executeMicrostep, amrMicrostep, smrMicrostep, Config.smrOrder, hm, hlatched, orStall_setMAR_ne_noRule]
  | air f | sir f | and f =>
    have hm5 : s.micro < 5 := hm
    obtain hm | hm | hm | hm | hm :
      s.micro = 0 ∨ s.micro = 1 ∨ s.micro = 2 ∨ s.micro = 3 ∨ s.micro = 4 := by omega
    all_goals simp [executeMicrostep, airMicrostep, sirMicrostep, andMicrostep, hm]
  | sob f =>
    have hm5 : s.micro < 5 := hm
    have hlatched : s.ea ≠ none := by simpa [Instr.mnemonic] using hea
    obtain hm | hm | hm | hm | hm :
      s.micro = 0 ∨ s.micro = 1 ∨ s.micro = 2 ∨ s.micro = 3 ∨ s.micro = 4 := by omega
    all_goals simp [executeMicrostep, sobMicrostep, hm, hlatched, State.jumpTo, ite_eq_iff]

theorem wordMicrostep_of_unhandled {op : BitVec 6} (f : Fields) (s : State)
    (h : mnemonicOf Config.opcodeMap op = none) : wordMicrostep (packWord op f) s = .raise (.unhandledOpcode op) := by
  have hdecode : decode (packWord op f) = .error (.unhandledOpcode op) := by
    rw [decode_eq_error_iff, opcodeField_packWord]
    exact ⟨h, rfl⟩
  rw [wordMicrostep, hdecode]
  rfl

/-- Past DECODE µ0 the latched mode is one of the three that R79 speaks of. -/
theorem mode_of_decodesOn {d : Decoded} (hon : d.decodesOn = true) :
    d.mode = .registerIndirect ∨ d.mode = .indexed ∨ d.mode = .indexedOffset := by
  obtain ⟨hmode, hdirect, -⟩ := (decodesOn_iff d).1 hon
  rw [hmode] at hdirect ⊢
  unfold eaMode at hdirect ⊢
  split_ifs at hdirect ⊢ <;> simp_all

/-- Every place of the run invariant is one that a rule speaks of (R76 to R84). -/
theorem State.LegalPlace.has_rule {s : State} {ms : MemState} {n : Nat} (h : s.LegalPlace ms n) :
    controlUnitPhase s ≠ .noRule := by
  cases h with
  | fetchStart ht hm =>
    rw [controlUnitPhase_of_fetch ht, fetchMicrostep_request hm]
    split <;> simp
  | fetchMove ht hm => simp [controlUnitPhase_of_fetch ht, fetchMicrostep_move hm]
  | decodeStart ht hm => simp [controlUnitPhase_of_decode ht, decodeMicrostep_start hm]
  | decodeLatched ht hm hd hon =>
    rw [controlUnitPhase_of_decode ht]
    obtain hmode | hmode := mode_of_decodesOn hon
    · simp [decodeMicrostep_registerIndirect hm hd hmode]
    · rw [decodeMicrostep_request hm hd hmode]
      split <;> simp
  | @decodeRead d ht hm hd hon hi =>
    have hmode : d.mode = .indexed ∨ d.mode = .indexedOffset := by
      rw [((decodesOn_iff d).1 hon).1]
      exact eaMode_of_ibit hi
    simp [controlUnitPhase_of_decode ht, decodeMicrostep_take hm hd hmode]
  | @execute d m ht hd hea hop hm =>
    rw [controlUnitPhase_of_execute ht hd, wordMicrostep_of_decode (decode_packWord d.fields hop)]
    refine executeMicrostep_has_rule (by rwa [mnemonic_make]) ?_
    rw [mnemonic_make, ← or_assoc, or_iff_not_imp_right, not_not]
    have hempty := hea.empty
    rwa [← opcodeMap_of_mnemonicOf hop, opcodeMap_eq_iff, opcodeMap_eq_iff] at hempty
  | unhandled ht hd _ hop => simp [controlUnitPhase_of_execute ht hd, wordMicrostep_of_unhandled _ _ hop]

/-- A phase that a rule describes lets the tick answer, if what follows it does. -/
theorem andThen_answers {r : PhaseResult} {s : State} {ph : TickPhase} {k : State → Host.Outcome State Fault Refusal}
    (hr : r ≠ .noRule) (hk : ∀ u, ∃ t, k u = .next t) : ∃ t, r.andThen s ph k = .next t := by
  cases r with
  | done u => exact hk u
  | raise e => exact ⟨_, rfl⟩
  | noRule => exact absurd rfl hr

/-- The phases of the units always have a rule, so that a tick answers where the control unit's microstep has one. -/
theorem tickWith_answers {cu : State → PhaseResult} {s : State} (h : cu s ≠ .noRule) :
    ∃ t, tickWith cu s = .next t := by
  rw [tickWith]
  split
  · exact ⟨s, rfl⟩
  · exact andThen_answers h fun s1 => andThen_answers (aluPhase_has_rule s1) fun s2 =>
      andThen_answers (memoryPhase_has_rule s2) fun s3 => ⟨ioPhase s3, rfl⟩

/-! ## Microsteps move the control unit (R73) -/

/-- The control unit stands at another microstep in `t` than in `s`. -/
def State.MovesTo (s t : State) : Prop := t.top ≠ s.top ∨ t.micro ≠ s.micro

section

variable {s t : State} {n : Nat}

theorem State.LegalPlace.not_busy_at_fetch {ms : MemState} (h : s.LegalPlace ms n) (htop : s.top = .fetch)
    (hm : s.micro = 0) : ms.busy = false := by
  cases h with
  | fetchStart => rfl
  | _ => simp_all

theorem fetchMoves_movesTo (h : s.RunsLegally n) (htop : s.top = .fetch) (hmove : s.FetchMoves t) : s.MovesTo t := by
  cases hmove with
  | stalls hm hb => simp [h.place.not_busy_at_fetch htop hm] at hb
  | requests hm => exact .inr (by simp [hm])
  | moves => exact .inl (by simp [htop])

theorem decodeMoves_movesTo {op : BitVec 6} {f : Fields} (h : s.RunsLegally n) (htop : s.top = .decode)
    (hmove : s.DecodeMoves op f t) : s.MovesTo t := by
  cases hmove with
  | stalls hm hb => simp [h.place.not_busy (.inl ⟨htop, hm⟩)] at hb
  | immediate | direct | computes | takes => exact .inl (by simp [htop])
  | latches hm | reads hm => exact .inr (by simp [hm])

theorem executeMoves_movesTo {m : Mnemonic} (h : s.RunsLegally n) (htop : s.top = .execute)
    (hmove : s.ExecuteMoves m t) : t.halted = true ∨ s.MovesTo t := by
  cases hmove with
  | stalls hm hb => simp [h.place.not_busy (.inr ⟨htop, hm⟩)] at hb
  | goesOn hgo => exact .inr (.inr (by simp [hgo.micro]))
  | finishes hfin => exact .inr (.inl (by simp [hfin.boundary.1, htop]))
  | halts => exact .inl rfl

theorem controlUnitPhase_movesTo (h : s.RunsLegally n) (hcu : controlUnitPhase s = .done t) :
    t.halted = true ∨ s.MovesTo t := by
  cases htop : s.top with
  | fetch =>
    rw [controlUnitPhase_of_fetch htop] at hcu
    exact .inr (fetchMoves_movesTo h htop (fetchMicrostep_moves hcu))
  | decode =>
    rw [controlUnitPhase_of_decode htop] at hcu
    exact .inr (decodeMoves_movesTo h htop (decodeMicrostep_moves hcu))
  | execute =>
    obtain ⟨i, -, hmove, -⟩ := controlUnitPhase_execute h htop hcu
    exact executeMoves_movesTo h htop hmove

/-- A tick from a legal place that does not stop the run moves the control unit. -/
theorem tick_movesTo (h : s.RunsLegally n) (ht : tick s = .next t) : t.stopped = true ∨ s.MovesTo t := by
  cases hstop : t.stopped with
  | true => exact .inl rfl
  | false =>
    obtain ⟨s1, hcu, hsame, -⟩ := tickWith_next_running ht hstop
    obtain hhalt | hmoves := controlUnitPhase_movesTo h hcu
    · cases ((stopped_eq_false_iff t).1 hstop).1.symm.trans (hsame.halted.trans hhalt)
    · right
      rwa [State.MovesTo, hsame.top, hsame.micro]

end

/-- Settles O53: a legal place has a rule, and its microstep does not stall. -/
theorem runsNeverStallOrMeetAMissingRule : Obligations.RunsNeverStallOrMeetAMissingRule := by
  unfold Obligations.RunsNeverStallOrMeetAMissingRule
  intro s hinv hrun
  obtain ⟨n, hlegal⟩ := runsLegally_of_runPlace ((runInv_iff s).1 hinv).2 hrun
  obtain ⟨t, ht⟩ := tickWith_answers hlegal.place.has_rule
  exact ⟨t, ht, tick_movesTo hlegal ht⟩

end Sys2Proof.Machine
end

section
/-!
PROOFS. A host's deposit into MBR (70_reset_and_hazards.md R148): DECODE µ0 makes no request, so that the memory phase
of the next tick performs the host's (20_memory.md R41), and the unit is busy after it.
-/

namespace Sys2Proof.Machine

open Sys2Proof

/-- DECODE µ0 writes its latches and the place of the control unit alone (40_cycle.md R78). -/
theorem decodeStart_eq_update (op : BitVec 6) (f : Fields) (s : State) :
    ∃ d ea top micro, decodeStart op f s = { s with dec := d, ea := ea, top := top, micro := micro } := by
  unfold decodeStart
  repeat' split
  all_goals exact ⟨_, _, _, _, rfl⟩

/-- A tick at DECODE µ0 with the ALU idle performs a write that is pending in the memory unit. -/
theorem tick_stores_pending {s : State} (hrun : s.stopped = false) (htop : s.top = .decode) (hm : s.micro = 0)
    (ha : s.astate = .none) (hms : s.mstate = .preStore) (hmar : s.mar.toNat < 2048) :
    ∃ t, tick s = .next t ∧ t.mem = s.mem.write s.mar.toNat s.mbr ∧ t.mstate = .store := by
  obtain ⟨d, ea, top, micro, hstart⟩ := decodeStart_eq_update (opcodeField s.ir) (fieldsOf s.ir) s
  have hcu := (controlUnitPhase_of_decode htop).trans (decodeMicrostep_start hm)
  rw [hstart] at hcu
  exact ⟨_, tickWith_done hrun hcu (aluPhase_of_none ha) (memoryPhase_of_preStore hms hmar), rfl, rfl⟩

theorem writeRegister_mar_of_busy {s : State} (n : Int) (h : s.mstate.busy = true) :
    s.writeRegister .mar n = (.refused, s) := by
  rw [State.writeRegister, setMAR_of_busy s n h, hostRequest]

/-- Settles O60: the host's write leaves the unit a pending write, and the tick at DECODE µ0 performs it. -/
theorem hostMbrDepositStoresAtMar : Obligations.HostMbrDepositStoresAtMar := by
  unfold Obligations.HostMbrDepositStoresAtMar
  intro s n hs hmar hwf hlow hhigh
  obtain ⟨hh, hf, htop, hm, -, -, -, hms, ha, -⟩ := hs
  have hwrite := writeRegister_mbr_of_legal s ⟨hlow, hhigh⟩
  rw [hms, if_neg (by decide)] at hwrite
  have hrun : s.stopped = false := (stopped_eq_false_iff s).2 ⟨hh, hf⟩
  obtain ⟨t, ht, hmem, hstore⟩ := tick_stores_pending
    (s := { s with mbr := BitVec.ofInt 20 n, mstate := .preStore }) hrun htop hm ha rfl hmar
  have hbusy : t.mstate.busy = true := (busy_eq_true_iff _).2 (.inr hstore)
  refine ⟨_, t, hwrite, ht, ?_, fun a hne => ?_, hstore, fun a => setMAR_of_busy t a hbusy,
    fun m => writeRegister_mar_of_busy m hbusy⟩
  · rw [hmem]
    exact Memory.read_write_same _ _ hwf
  · rw [hmem]
    exact Memory.read_write_of_ne _ hwf hne

end Sys2Proof.Machine
end
